-- ==== Sys2Proof/Word.lean ====
section
/-! DEFINITION. The word types of RTPDEC-FE: a byte of the wire, a 16-bit field, a 32-bit field or register.
Every value is unsigned (R16, R117); no value is sign-extended. -/

namespace Sys2Proof

/-- One byte of a datagram or of PKTBUF; bit 7 is the most significant (R14). -/
abbrev Byte := BitVec 8

/-- A 16-bit field: sequenceNumber, extensionHeaderId, extensionHeaderLength (R80). -/
abbrev Half := BitVec 16

/-- A 32-bit field, a host register or a command word (R31, R80, R125). -/
abbrev Word := BitVec 32

end Sys2Proof
end

