-- ==== Sys2Proof/Config.lean ====
section
/-! DEFINITION. The fixed figures of the spec (R7, R8), the parameters the spec leaves open (R9, R10, R12, R85), and the one
source of free values. -/

namespace Sys2Proof

/-- MAX_CSRC (R7). -/
abbrev Config.maxCsrc : Nat := 15

/-- AES67_PORT, the UDP port of every bind (R8). -/
abbrev Config.aes67Port : Nat := 5004

/-- The free values: what the spec calls unspecified, "any value" (U1 to U4, U27). `freeNat draw element` is the value
the draw numbered `draw` gives to one element; it has no body, so no proof can know it (log entry 10). -/
opaque Config.freeNat : Nat → Nat → Nat

/-- The named parameters a model takes as an argument (R9, R10, R12, R85). They are not state (R59): they ride in State so
that every statement quantifies over them, and no step writes them (log entry 3, DESIGN CHOICE). -/
structure Params where
  /-- MAX_DATAGRAM, the capacity of PKTBUF in bytes (R9). -/
  maxDatagram : Nat
  /-- REG_BASE, the base address of the host register block (R12). -/
  regBase : Nat
  /-- The size in bytes of the window the platform gives the block (R41, R85). -/
  windowBytes : Nat
  /-- NET_QUEUE_DEPTH, the capacity of Net's socket queue (R12, R57). -/
  netQueueDepth : Nat
  /-- RX_TIMEOUT; no rule reads it (R10). -/
  rxTimeout : Nat
  deriving DecidableEq, Repr

/-- What the spec asks of the parameters: MAX_DATAGRAM ≥ 13 (R9). That the register block is 4-aligned and that the window
holds the mapped registers is the model's reading of R31 and R87 (log entry 4). -/
abbrev Params.wf (p : Params) : Prop :=
  13 ≤ p.maxDatagram ∧ p.regBase % 4 = 0 ∧ 0x28 ≤ p.windowBytes

/-- The parameters State.reset carries: the capacity R9 suggests, and values of the model's choosing for the rest
(log entry 3, DESIGN CHOICE). -/
def Params.default : Params where
  maxDatagram := 1472
  regBase := 0
  windowBytes := 256
  netQueueDepth := 16
  rxTimeout := 5

end Sys2Proof
end

