-- ==== Sys2Proof/Syntax.lean ====
section
/-! DEFINITION. The instructions: one constructor for each of the eleven rows of spec/opcode_table.json. -/

namespace Sys2Proof

/-- The five packet forms byte 0 selects (R120) and the host command words (R126; the table gives CMD.RSVD two rows).
Bits an instruction does not read are kept as an operand, so that decoding drops no bit; that a meaning does not
depend on them is a statement about the meaning (R125, R154). -/
inductive Instr where
  /-- DEC.V2, `10P0CCCC` (R152). -/
  | decV2 (padding : Bool) (csrcCount : BitVec 4)
  /-- DEC.V2X, `10P1CCCC` (R153). -/
  | decV2X (padding : Bool) (csrcCount : BitVec 4)
  /-- DEC.V0, `00xxxxxx` (R154); `rest` is not read. -/
  | decV0 (rest : BitVec 6)
  /-- DEC.V1, `01xxxxxx` (R154); `rest` is not read. -/
  | decV1 (rest : BitVec 6)
  /-- DEC.V3, `11xxxxxx` (R154); `rest` is not read. -/
  | decV3 (rest : BitVec 6)
  /-- CMD.NOP, OPCODE 0x0 (R233); bits [31:4] are ignored (R125). -/
  | cmdNop (ignored : BitVec 28)
  /-- CMD.START, OPCODE 0x1 (R234, R238). -/
  | cmdStart (ignored : BitVec 28)
  /-- CMD.STOP, OPCODE 0x2 (R239, R240). -/
  | cmdStop (ignored : BitVec 28)
  /-- CMD.RECONFIGURE, OPCODE 0x3 (R242, R243). -/
  | cmdReconfigure (ignored : BitVec 28)
  /-- CMD.RSVD, first row: OPCODE 0x4 to 0x7 (R126, R233). -/
  | cmdRsvdLow (opcode : BitVec 4) (ignored : BitVec 28)
  /-- CMD.RSVD, second row: OPCODE 0x8 to 0xF (R126, R233). -/
  | cmdRsvdHigh (opcode : BitVec 4) (ignored : BitVec 28)
  deriving DecidableEq, Repr

end Sys2Proof
end

