-- ==== Sys2Proof/WellFormed.lean ====
section
/-! DEFINITION. Which instruction terms stand for words of the opcode table. The operand types bound every field but the
OPCODE of the two reserved rows, so those are the two checks. -/

namespace Sys2Proof

/-- An instruction term has an encoding exactly when its OPCODE, where it carries one, lies in its row's range (R126). -/
def Instr.wf : Instr → Bool
  | .decV2 _ _ => true
  | .decV2X _ _ => true
  | .decV0 _ => true
  | .decV1 _ => true
  | .decV3 _ => true
  | .cmdNop _ => true
  | .cmdStart _ => true
  | .cmdStop _ => true
  | .cmdReconfigure _ => true
  | .cmdRsvdLow op _ => decide (4 ≤ op.toNat ∧ op.toNat ≤ 7)
  | .cmdRsvdHigh op _ => decide (8 ≤ op.toNat)

end Sys2Proof
end

