-- ==== Sys2Proof/Decode.lean ====
section
/-! DEFINITION. From code to instructions and back. RTPDEC-FE has two code spaces: byte 0 of a datagram longer than 12
bytes (R120) and the 32-bit command word (R125, R126). -/

namespace Sys2Proof

/-! ## The bit fields -/

/-- V, bits [7:6] of byte 0 (R111). -/
def byte0Version (b : Byte) : BitVec 2 := b.extractLsb' 6 2

/-- P, bit 5 of byte 0 (R111). -/
def byte0Padding (b : Byte) : Bool := b.getLsbD 5

/-- X, bit 4 of byte 0 (R111). -/
def byte0Extension (b : Byte) : Bool := b.getLsbD 4

/-- CC, bits [3:0] of byte 0 (R111). -/
def byte0CsrcCount (b : Byte) : BitVec 4 := b.extractLsb' 0 4

/-- Bits [5:0] of byte 0, which the forms of R154 do not read. -/
def byte0Rest (b : Byte) : BitVec 6 := b.extractLsb' 0 6

/-- OPCODE, bits [3:0] of a command word (R125). -/
def commandOpcode (w : Word) : BitVec 4 := w.extractLsb' 0 4

/-- Bits [31:4] of a command word, ignored whatever they hold (R125). -/
def commandIgnored (w : Word) : BitVec 28 := w.extractLsb' 4 28

/-! ## Decoding -/

/-- The packet form byte 0 selects (R120). The five patterns cover all 256 values. -/
def decodeForm (b : Byte) : Instr :=
  match (byte0Version b).toNat with
  | 0 => .decV0 (byte0Rest b)
  | 1 => .decV1 (byte0Rest b)
  | 2 => if byte0Extension b then .decV2X (byte0Padding b) (byte0CsrcCount b)
      else .decV2 (byte0Padding b) (byte0CsrcCount b)
  | _ => .decV3 (byte0Rest b)

/-- The command a word written to CMD issues (R126). The patterns cover all 16 OPCODEs. -/
def decodeCommand (w : Word) : Instr :=
  match (commandOpcode w).toNat with
  | 0 => .cmdNop (commandIgnored w)
  | 1 => .cmdStart (commandIgnored w)
  | 2 => .cmdStop (commandIgnored w)
  | 3 => .cmdReconfigure (commandIgnored w)
  | 4 => .cmdRsvdLow (commandOpcode w) (commandIgnored w)
  | 5 => .cmdRsvdLow (commandOpcode w) (commandIgnored w)
  | 6 => .cmdRsvdLow (commandOpcode w) (commandIgnored w)
  | 7 => .cmdRsvdLow (commandOpcode w) (commandIgnored w)
  | _ => .cmdRsvdHigh (commandOpcode w) (commandIgnored w)

/-- What is decoded: a datagram as Net delivers it, or a word written to CMD. -/
inductive Code where
  | datagram (bytes : List Byte)
  | command (w : Word)
  deriving DecidableEq, Repr

/-- Why code selects no instruction. -/
inductive DecodeError where
  /-- A datagram of 12 bytes or fewer selects no form, and its byte 0 is not read (R120, R155). -/
  | tooShort
  deriving DecidableEq, Repr

/-- Decoding, total on any code (R120, R126). -/
def decode : Code → Except DecodeError Instr
  | .datagram d =>
    match d with
    | [] => .error .tooShort
    | b :: _ => if d.length ≤ 12 then .error .tooShort else .ok (decodeForm b)
  | .command w => .ok (decodeCommand w)

/-- The bits that select an instruction and hold its operands: byte 0, or a whole command word. -/
inductive CodeWord where
  | form (b : Byte)
  | command (w : Word)
  deriving DecidableEq, Repr

/-- Decoding of those bits; every word of either space is some instruction. -/
def decodeWord : CodeWord → Instr
  | .form b => decodeForm b
  | .command w => decodeCommand w

/-! ## Encoding -/

/-- Byte 0 of a version 2 packet: V = 2, P, X, CC (R111). -/
def formByte (padding extension : Bool) (csrcCount : BitVec 4) : Byte :=
  2#2 ++ BitVec.ofBool padding ++ BitVec.ofBool extension ++ csrcCount

/-- A command word: the ignored bits above the OPCODE (R125). -/
def commandWord (opcode : BitVec 4) (ignored : BitVec 28) : Word := ignored ++ opcode

/-- The words of an instruction (R111, R120, R125, R126). -/
def encode : Instr → CodeWord
  | .decV2 p cc => .form (formByte p false cc)
  | .decV2X p cc => .form (formByte p true cc)
  | .decV0 rest => .form (0#2 ++ rest)
  | .decV1 rest => .form (1#2 ++ rest)
  | .decV3 rest => .form (3#2 ++ rest)
  | .cmdNop ign => .command (commandWord 0 ign)
  | .cmdStart ign => .command (commandWord 1 ign)
  | .cmdStop ign => .command (commandWord 2 ign)
  | .cmdReconfigure ign => .command (commandWord 3 ign)
  | .cmdRsvdLow op ign => .command (commandWord op ign)
  | .cmdRsvdHigh op ign => .command (commandWord op ign)

/-! ## The opcode table -/

/-- A row of spec/opcode_table.json: the code space, mask and match. -/
structure OpcodeRow where
  mnemonic : String
  isForm : Bool
  mask : Word
  pattern : Word
  deriving DecidableEq, Repr

/-- The eleven rows of spec/opcode_table.json, in its order (R120, R126). -/
def opcodeTable : List OpcodeRow :=
  [⟨"DEC.V2", true, 0xD0, 0x80⟩, ⟨"DEC.V2X", true, 0xD0, 0x90⟩, ⟨"DEC.V0", true, 0xC0, 0x00⟩,
    ⟨"DEC.V1", true, 0xC0, 0x40⟩, ⟨"DEC.V3", true, 0xC0, 0xC0⟩] ++
  [⟨"CMD.NOP", false, 0xF, 0x0⟩, ⟨"CMD.START", false, 0xF, 0x1⟩, ⟨"CMD.STOP", false, 0xF, 0x2⟩,
    ⟨"CMD.RECONFIGURE", false, 0xF, 0x3⟩, ⟨"CMD.RSVD", false, 0xC, 0x4⟩, ⟨"CMD.RSVD", false, 0x8, 0x8⟩]

/-- A word belongs to a row of its own space whose masked bits it has. -/
def OpcodeRow.matches (r : OpcodeRow) : CodeWord → Bool
  | .form b => r.isForm && decide (b.setWidth 32 &&& r.mask = r.pattern)
  | .command w => !r.isForm && decide (w &&& r.mask = r.pattern)

/-- The row each constructor stands for, as an index into `opcodeTable`. -/
def Instr.rowIndex : Instr → Nat
  | .decV2 _ _ => 0
  | .decV2X _ _ => 1
  | .decV0 _ => 2
  | .decV1 _ => 3
  | .decV3 _ => 4
  | .cmdNop _ => 5
  | .cmdStart _ => 6
  | .cmdStop _ => 7
  | .cmdReconfigure _ => 8
  | .cmdRsvdLow _ _ => 9
  | .cmdRsvdHigh _ _ => 10

/-! ## The table's words, laid out as the hardware takes them -/

/-- The length of the datagram a table word of a packet form stands for: the longest header (12 + 15·4 + 4 bytes), so that with
every later byte 0 each form of R152 and R153 finds its CSRC list and its extension preamble (log entry 7). -/
def tableDatagramLength : Nat := 76

/-- A table word as code. A packet form's row is one byte: byte 0, the rest of the datagram 0. A command's row is the 32-bit
word of R125, of which the table fixes only bits [3:0], so that one byte below 16 with 0 above it may stand for a command too: 0 is
read as the row DEC.V0 gives it, and 1 to 15 as commands (log entry 7). -/
def tableCode (nbits w : Nat) : Option Code :=
  if nbits = 8 ∧ w < 2 ^ 8 ∧ (w = 0 ∨ 16 ≤ w) then
    some (.datagram (BitVec.ofNat 8 w :: List.replicate (tableDatagramLength - 1) 0))
  else if (nbits = 8 ∨ nbits = 32) ∧ w < 2 ^ nbits then some (.command (BitVec.ofNat 32 w))
  else none

/-- The instruction the decoder reads from a table word. -/
def decodeTableWord (nbits w : Nat) : Option Instr :=
  match tableCode nbits w with
  | none => none
  | some c =>
    match decode c with
    | .ok i => some i
    | .error _ => none

end Sys2Proof
end

