-- ==== Sys2Proof/Machine/State.lean ====
section
/-! DEFINITION. The state of RTPDEC-FE and of what its rules read of the external agents (10_state.md), as plain data; the moves
of the agents; the reasons a step can stop; the state after reset. -/

namespace Sys2Proof.Machine

/-! ## Codes, phases and records -/

/-- The error codes of R121; `ErrCode.code` gives their 8-bit values. A reserved code (R122) is not representable. -/
inductive ErrCode where
  | none
  | tooShort
  | unsupportedVersion
  | invalidCsrcCount
  | bufferTooShort
  | datagramTooLong
  | configInvalid
  | unsupportedSampleFormat
  | bindFailed
  | socketAllocFailed
  | nullPayload
  | bufferTooSmall
  deriving DecidableEq, Repr

/-- STATE (R45). -/
inductive Session where
  | stopped
  | starting
  | running
  | stopping
  deriving DecidableEq, Repr

/-- LOOP, the receive loop's phase (R47). -/
inductive Phase where
  | idle
  | check
  | wait
  | process
  | dispatch
  deriving DecidableEq, Repr

/-- The six bits CFG_STREAM, ACT_STREAM and PEND_STREAM hold; their other bits are reserved and read 0 (R37). -/
structure Stream where
  rate : BitVec 2
  layout : BitVec 2
  format : BitVec 2
  deriving DecidableEq, Repr

/-- One of the three configurations: CFG_* (R35 to R37), ACT_* (R38), PEND_* (R44). -/
structure SessionConfig where
  group : Word
  iface : Word
  stream : Stream
  deriving DecidableEq, Repr

/-- PKT, the decoded packet record (R52), with the CSRC register file (R53). -/
structure Packet where
  version : BitVec 2
  padding : Bool
  extension : Bool
  csrcCount : BitVec 4
  marker : Bool
  payloadType : BitVec 7
  sequenceNumber : Half
  timestamp : Word
  ssrc : Word
  csrc : Vector Word 15
  extensionHeaderId : Half
  extensionHeaderLength : Half
  extOffset : Nat
  payloadOffset : Nat
  payloadLength : Nat
  deriving DecidableEq, Repr

/-- The dispatch record offered to Down (R130): PKT's fields, CSRC entries 0 to csrcCount − 1 only, the windows into PKTBUF as
offsets and lengths (R55), and the active RATE, LAYOUT and FORMAT. -/
structure DispatchRecord where
  version : BitVec 2
  padding : Bool
  extension : Bool
  csrcCount : BitVec 4
  marker : Bool
  payloadType : BitVec 7
  sequenceNumber : Half
  timestamp : Word
  ssrc : Word
  csrc : List Word
  extensionHeaderId : Half
  extensionHeaderLength : Half
  extOffset : Nat
  payloadOffset : Nat
  payloadLength : Nat
  stream : Stream
  deriving DecidableEq, Repr

/-- PKTBUF as (index, byte) pairs, indices strictly rising. An index not listed has no value, and reading it faults
(log entry 8, safe), so every listed byte differs from what an unlisted index reads as. -/
abbrev Memory := List Host.Cell

/-- The canonical form of a memory: indices strictly rising. -/
abbrev Memory.wf (m : Memory) : Prop := m.Pairwise fun x y => x.1 < y.1

/-! ## The external agents -/

/-- What BIND_REQ asks for and Net binds: (group, iface, AES67_PORT) (R57, R129). -/
structure Binding where
  group : Word
  iface : Word
  port : Nat
  deriving DecidableEq, Repr

/-- Net's verdict on a bind (R129, R245). -/
inductive BindVerdict where
  | ok
  | bindFailed
  | socketAllocFailed
  deriving DecidableEq, Repr

/-- What Net holds for the block: the request it has not answered (R245, R361), the binding, and the socket queue with its
head first (R57). -/
structure NetAgent where
  request : Option Binding
  binding : Option Binding
  queue : List (List Byte)
  deriving DecidableEq, Repr

/-- The direction of a host access. -/
inductive AccessKind where
  | read
  | write (value : Word)
  deriving DecidableEq, Repr

/-- One access the Host issues on its bus: an address and a width in bytes (R87). -/
structure HostAccess where
  kind : AccessKind
  addr : Nat
  bytes : Nat
  deriving DecidableEq, Repr

/-- The two windows of a dispatch record (R55). -/
inductive Window where
  | extension
  | payload
  deriving DecidableEq, Repr

/-- One step of one agent, as the schedule names it (R19, R327). -/
inductive Move where
  /-- Host: its next access in program order (R92). -/
  | host
  /-- Net answers the outstanding BIND_REQ (R236, R237). -/
  | bindResp (verdict : BindVerdict)
  /-- Net receives a datagram for the binding (R57, R291). -/
  | netArrive (bytes : List Byte)
  /-- Net loses the datagram at one place of its queue (R291). -/
  | netLose (place : Nat)
  /-- Loop: Check (R281). -/
  | check
  /-- Loop with Net: ingress of the queue's head (R282). -/
  | rxDatagram
  /-- Timer: RX_TIMEOUT (R283). -/
  | rxTimeout
  /-- Loop: Process, one decode (R284). -/
  | process
  /-- Down: SINK_ACK (R286). -/
  | sinkAck
  /-- Down: CONV_FATAL (R287). -/
  | convFatal
  /-- Down reads one byte of a window (R55, R372). -/
  | downRead (window : Window) (index : Nat)
  /-- Block control: stop completion (R241). -/
  | complete
  /-- Platform: reset (R360, R361). -/
  | reset
  deriving DecidableEq, Repr

/-! ## The state -/

/-- Everything the spec gives the machine, and five fields of the model's own (the last five). -/
structure State where
  /-- The parameters; no step writes them (R59, log entry 3). -/
  params : Params
  /-- CFG_GROUP, CFG_IFACE, CFG_STREAM (R35 to R37). -/
  cfg : SessionConfig
  /-- ACT_GROUP, ACT_IFACE, ACT_STREAM (R38). -/
  act : SessionConfig
  /-- PEND_GROUP, PEND_IFACE, PEND_STREAM (R44). -/
  pend : SessionConfig
  /-- RX_OK_COUNT (R39). -/
  rxOkCount : Word
  /-- RX_DROP_COUNT (R40). -/
  rxDropCount : Word
  /-- SESSION_ERR (R42). -/
  sessionErr : ErrCode
  /-- LAST_DECODE_ERR (R43). -/
  lastDecodeErr : ErrCode
  /-- STATE (R45). -/
  session : Session
  /-- LOOP (R47). -/
  loop : Phase
  /-- RUN (R48). -/
  run : Bool
  /-- RESTART (R44). -/
  restart : Bool
  /-- PERF_HINT (R49). -/
  perfHint : Bool
  /-- SOCK_BOUND (R49). -/
  sockBound : Bool
  /-- PKTBUF (R50). -/
  pktBuf : Memory
  /-- BUFLEN (R51). -/
  bufLen : Nat
  /-- PKT and the CSRC file (R52, R53). -/
  pkt : Packet
  /-- PKT_VALID (R54). -/
  pktValid : Bool
  /-- CUR (R56); between steps its value is unspecified (log entry 17). -/
  cur : Nat
  /-- What Net holds for the block (R57). -/
  net : NetAgent
  /-- The record offered to Down and not yet answered (R58, R285). -/
  offer : Option DispatchRecord
  /-- The model's own: the Host's accesses still to come, in program order (log entry 4). -/
  hostProgram : List HostAccess
  /-- The model's own: what the Host's last read returned (log entry 5). -/
  hostRead : Option Word
  /-- The model's own: what Down's last window read returned (log entry 15). -/
  downRead : Option Byte
  /-- The model's own: the moves still to come; the head is the next step (log entry 1). -/
  schedule : List Move
  /-- The model's own: the number of the next free value (log entry 11). -/
  draws : Nat
  deriving DecidableEq, Repr

/-! ## How a step can stop -/

/-- Why there is no next state. Each is safe: the machine has no such step, so no behaviour is lost. -/
inductive Fault where
  /-- Raised by `step` when the schedule is empty: no agent's step has been drawn (log entry 1). Safe. -/
  | noMoveScheduled
  /-- Raised by a step, a packet form among them, whose enabling condition does not hold (R326; log entry 2). Safe: the spec has no
  such step. -/
  | stepNotEnabled
  /-- Raised by a host access that is not an aligned 32-bit access inside the window: it has no step and the Host is stuck at it
  (R87, U10; log entry 4). Safe. -/
  | accessNotAdmitted
  /-- Raised by a read of PKTBUF at or above BUFLEN (R82) or of a byte nothing has written (log entry 8). Safe. -/
  | byteNotReadable (index : Nat)
  deriving DecidableEq, Repr

/-- Why an instruction has no meaning. -/
inductive Refusal where
  /-- Raised by `exec` for an instruction not modelled yet; safe. Every instruction of the table is modelled, so no arm raises it. -/
  | notModelled (mnemonic : String)
  deriving DecidableEq, Repr

/-! ## Reset -/

/-- The reset value of CFG_*, ACT_* and PEND_*: (0, 0, 0x00000015), that is 48000 Hz, stereo, L24 (R37, R360). -/
def SessionConfig.reset : SessionConfig := ⟨0, 0, ⟨1, 1, 1⟩⟩

/-- The value the model names for PKT, which the spec leaves unspecified at reset: every field 0 (R52, R53; log entry 9, DESIGN
CHOICE, unsafe). -/
def Packet.zero : Packet where
  version := 0
  padding := false
  extension := false
  csrcCount := 0
  marker := false
  payloadType := 0
  sequenceNumber := 0
  timestamp := 0
  ssrc := 0
  csrc := ⟨#[0, 0, 0, 0, 0, 0, 0, 0, 0, 0, 0, 0, 0, 0, 0], rfl⟩
  extensionHeaderId := 0
  extensionHeaderLength := 0
  extOffset := 0
  payloadOffset := 0
  payloadLength := 0

/-- The machine right after reset (R360, and the reset value at each rule of 10_state.md). PKT and CUR hold the values log entry
9 names; nothing is scheduled. -/
def State.reset : State where
  params := Params.default
  cfg := SessionConfig.reset
  act := SessionConfig.reset
  pend := SessionConfig.reset
  rxOkCount := 0
  rxDropCount := 0
  sessionErr := .none
  lastDecodeErr := .none
  session := .stopped
  loop := .idle
  run := false
  restart := false
  perfHint := false
  sockBound := false
  pktBuf := []
  bufLen := 0
  pkt := Packet.zero
  pktValid := false
  cur := 0
  net := ⟨none, none, []⟩
  offer := none
  hostProgram := []
  hostRead := none
  downRead := none
  schedule := []
  draws := 0

end Sys2Proof.Machine
end

