-- ==== Sys2Proof/Machine/Ops.lean ====
section
/-! DEFINITION. The named operations over memory, registers and agents that the step rules share. RTPDEC-FE has no traps (R324): what
takes the place of taking an exception is `dropDatagram` (the protocol errors of R320) and, with no state saved, there is
nothing to return from (R331). -/

namespace Sys2Proof.Machine

/-! ## PKTBUF -/

/-- The byte listed at an index; none where nothing has been written. -/
def Memory.read : Memory → Nat → Option Byte
  | [], _ => none
  | (a, v) :: m, x => if x = a then some v else Memory.read m x

/-- Write one byte, keeping the canonical form. -/
def Memory.write : Memory → Nat → Byte → Memory
  | [], x, v => [(x, v)]
  | (a, u) :: m, x, v =>
    if x < a then (x, v) :: (a, u) :: m
    else if x = a then (x, v) :: m
    else (a, u) :: Memory.write m x v

/-- Write bytes at consecutive indices: `PKTBUF[at .. at + len(d)) <- d` (R282). -/
def Memory.writeBytes (m : Memory) (start : Nat) : List Byte → Memory
  | [] => m
  | v :: d => Memory.writeBytes (m.write start v) (start + 1) d

/-- The bytes of a window, where every one of them is listed (R55). -/
def Memory.window (m : Memory) (offset : Nat) : Nat → Option (List Byte)
  | 0 => some []
  | n + 1 =>
    match m.read offset, Memory.window m (offset + 1) n with
    | some b, some bs => some (b :: bs)
    | _, _ => none

/-! ## Free values (log entry 10) -/

/-- The width in bits of an index of PKTBUF, `ceil(log2(MAX_DATAGRAM + 1))` (R51). -/
def indexBits (p : Params) : Nat := Nat.log2 p.maxDatagram + 1

/-- A free index: any value of the index width. -/
def freeIndex (bits draw element : Nat) : Nat := Config.freeNat draw element % 2 ^ bits

/-- A free 32-bit value. -/
def freeWord (draw element : Nat) : Word := BitVec.ofNat 32 (Config.freeNat draw element)

/-- The CSRC register file after a decode: the list in wire order, and from csrcCount on any value (R53, U2). -/
def csrcFile (entries : List Word) (draw : Nat) : Vector Word 15 :=
  Vector.ofFn fun i => entries.getD i (freeWord draw i)

/-- The element numbers of the free values of one draw: 0 to 14 are the CSRC slots. -/
def freeCur (bits draw : Nat) : Nat := freeIndex bits draw 15

/-- PKT after a failed decode or a reset step: every field any value of its width (R52, R159, U1, U4). -/
def freePacket (bits draw : Nat) : Packet where
  version := BitVec.ofNat 2 (Config.freeNat draw 16)
  padding := (Config.freeNat draw 17).testBit 0
  extension := (Config.freeNat draw 18).testBit 0
  csrcCount := BitVec.ofNat 4 (Config.freeNat draw 19)
  marker := (Config.freeNat draw 20).testBit 0
  payloadType := BitVec.ofNat 7 (Config.freeNat draw 21)
  sequenceNumber := BitVec.ofNat 16 (Config.freeNat draw 22)
  timestamp := freeWord draw 23
  ssrc := freeWord draw 24
  csrc := csrcFile [] draw
  extensionHeaderId := BitVec.ofNat 16 (Config.freeNat draw 25)
  extensionHeaderLength := BitVec.ofNat 16 (Config.freeNat draw 26)
  extOffset := freeIndex bits draw 27
  payloadOffset := freeIndex bits draw 28
  payloadLength := freeIndex bits draw 29

/-- A free byte: what Down reads through a window it no longer holds (U27). -/
def freeByte (draw : Nat) : Byte := BitVec.ofNat 8 (Config.freeNat draw 30)

/-! ## Recording an error and ending an iteration -/

/-- A protocol error drops the datagram and the loop goes on: the code and the count are recorded, LOOP is Check (R282, R284, R320,
R321). -/
def dropDatagram (c : ErrCode) (s : State) : State :=
  { s with lastDecodeErr := c, rxDropCount := s.rxDropCount + 1, loop := .check }

/-- Process with `Err(c)` (R284): the drop; PKT and CUR are then unspecified and PKT_VALID stays as it is (R56, R159). -/
def failDecode (c : ErrCode) (s : State) : State :=
  { dropDatagram c s with
    pkt := freePacket (indexBits s.params) s.draws
    cur := freeCur (indexBits s.params) s.draws
    draws := s.draws + 1 }

/-- The dispatch record of a packet under a configuration (R130, R285). -/
def dispatchRecord (p : Packet) (st : Stream) : DispatchRecord where
  version := p.version
  padding := p.padding
  extension := p.extension
  csrcCount := p.csrcCount
  marker := p.marker
  payloadType := p.payloadType
  sequenceNumber := p.sequenceNumber
  timestamp := p.timestamp
  ssrc := p.ssrc
  csrc := p.csrc.toList.take p.csrcCount.toNat
  extensionHeaderId := p.extensionHeaderId
  extensionHeaderLength := p.extensionHeaderLength
  extOffset := p.extOffset
  payloadOffset := p.payloadOffset
  payloadLength := p.payloadLength
  stream := st

/-- Process with `Ok(p)` (R284), and the offer to Down on entry to Dispatch (R285). CUR is unspecified after it (R56). -/
def acceptPacket (p : Packet) (s : State) : State :=
  { s with
    pkt := p
    pktValid := true
    rxOkCount := s.rxOkCount + 1
    loop := .dispatch
    offer := some (dispatchRecord p s.act.stream)
    cur := freeCur (indexBits s.params) s.draws
    draws := s.draws + 1 }

/-! ## Starting and stopping a session -/

/-- An accepted START or RECONFIGURE latches CFG_* into PEND_* (R44, R234, R242, R243). -/
def latchConfig (s : State) : State := { s with pend := s.cfg }

/-- FORMAT is L16 or L24 (R124, R235 line 2). -/
def Stream.formatLegal (c : Stream) : Bool := decide (c.format.toNat < 2)

/-- RATE or LAYOUT holds the reserved code 3 (R124, R235 line 3). -/
def Stream.rateOrLayoutReserved (c : Stream) : Bool := decide (c.rate = 3) || decide (c.layout = 3)

/-- What BIND_REQ carries (R129). -/
def bindTriple (c : SessionConfig) : Binding := ⟨c.group, c.iface, Config.aes67Port⟩

/-- StartSequence (R235), with the check order of R329. -/
def startSequence (s : State) : State :=
  if s.pend.group = 0 then { s with sessionErr := .configInvalid }
  else if s.pend.stream.formatLegal = false then { s with sessionErr := .unsupportedSampleFormat }
  else if s.pend.stream.rateOrLayoutReserved then { s with sessionErr := .configInvalid }
  else
    { s with
      act := s.pend
      sessionErr := .none
      session := .starting
      net := { s.net with request := some (bindTriple s.pend) } }

/-- The bind is confirmed: the loop begins (R236), and Net holds the binding that was asked for (R57). -/
def beginRunning (b : Binding) (s : State) : State :=
  { s with
    sockBound := true
    perfHint := true
    run := true
    loop := .check
    session := .running
    net := { s.net with request := none, binding := some b } }

/-- The bind failed: STATE is Stopped again and SESSION_ERR holds the verdict (R237). -/
def failBind (c : ErrCode) (s : State) : State :=
  { s with sessionErr := c, session := .stopped, net := { s.net with request := none } }

/-- STOP and RECONFIGURE in Running clear RUN and move to Stopping; RECONFIGURE also asks for a restart (R239, R243). -/
def beginStopping (again : Bool) (s : State) : State :=
  { s with run := false, restart := again, session := .stopping }

/-- Stop completion up to line 3 of R241: PERF_HINT, then UNBIND with Net's queue emptied and SOCK_BOUND, then Stopped (R57, R94). -/
def releaseSession (s : State) : State :=
  { s with
    perfHint := false
    sockBound := false
    session := .stopped
    net := { s.net with binding := none, queue := [] } }

/-- Stop completion (R241): the release and, if RESTART is 1, StartSequence within the same step. -/
def completeStop (s : State) : State :=
  if s.restart then startSequence { releaseSession s with restart := false } else releaseSession s

/-- SINK_ACK (R286): the dispatch has ended and Down holds no record (R58). -/
def endDispatch (s : State) : State := { s with pktValid := false, loop := .check, offer := none }

/-- CONV_FATAL (R287). -/
def fatalReport (s : State) : State :=
  { s with
    pktValid := false
    sessionErr := .unsupportedSampleFormat
    run := false
    restart := false
    session := if s.session = .running then .stopping else s.session
    loop := .check
    offer := none }

/-- Ingress of a datagram no longer than MAX_DATAGRAM (R282): the bytes at L and above keep their old values. -/
def ingest (d : List Byte) (s : State) : State :=
  { s with pktBuf := s.pktBuf.writeBytes 0 d, bufLen := d.length, loop := .process }

/-! ## Reset -/

/-- The reset step (R360, R361): every element the spec gives a reset value takes it, Net's binding, queue and request and Down's
offer are withdrawn. PKTBUF has no value (U3), PKT and CUR any value (U4). The parameters, the Host's program and what
was read stay: they are not the block's (log entry 24). -/
def resetBlock (s : State) : State :=
  { State.reset with
    params := s.params
    pkt := freePacket (indexBits s.params) s.draws
    cur := freeCur (indexBits s.params) s.draws
    hostProgram := s.hostProgram
    hostRead := s.hostRead
    downRead := s.downRead
    schedule := s.schedule
    draws := s.draws + 1 }

end Sys2Proof.Machine
end

