-- ==== Sys2Proof/Machine/Operands.lean ====
section
/-! DEFINITION. The operands the rules read: bytes and big-endian fields of PKTBUF (R17, R80, R112 to R115), register offsets and
the fields of a written word (R31, R37), and whether a host access is one the block admits (R87). -/

namespace Sys2Proof.Machine

/-! ## Reads of PKTBUF inside a decode -/

/-- How a decode ends early: an error code of the spec (R18), or a read the spec forbids (R82), which never happens on a buffer
that holds its datagram (R158). -/
inductive DecodeStop where
  | raise (c : ErrCode)
  | noByte (index : Nat)
  deriving DecidableEq, Repr

/-- The result of DECODE (R150). -/
abbrev DecodeResult := Except DecodeStop Packet

/-- `MemRead(addr, 1)` (R17): only an index below BUFLEN may be read (R82). -/
def byteAt (m : Memory) (len index : Nat) : Except DecodeStop Byte :=
  if index < len then
    match m.read index with
    | some b => .ok b
    | none => .error (.noByte index)
  else .error (.noByte index)

/-- `MemRead(addr, n)` as a number (R17): the byte at the lower index is the more significant (R80). -/
def memRead (m : Memory) (len addr : Nat) : Nat → Except DecodeStop Nat
  | 0 => .ok 0
  | n + 1 => do
    let high ← byteAt m len addr
    let low ← memRead m len (addr + 1) n
    .ok (high.toNat * 256 ^ n + low)

/-- A 16-bit field (R80). -/
def readHalf (m : Memory) (len addr : Nat) : Except DecodeStop Half := do
  let v ← memRead m len addr 2
  .ok (BitVec.ofNat 16 v)

/-- A 32-bit field (R80). -/
def readWord (m : Memory) (len addr : Nat) : Except DecodeStop Word := do
  let v ← memRead m len addr 4
  .ok (BitVec.ofNat 32 v)

/-- `count` 32-bit values from `addr` on, in wire order (R114). -/
def readWords (m : Memory) (len addr : Nat) : Nat → Except DecodeStop (List Word)
  | 0 => .ok []
  | n + 1 => do
    let w ← readWord m len addr
    let ws ← readWords m len (addr + 4) n
    .ok (w :: ws)

/-! ## The parts of a packet -/

/-- The fields of bytes 1 to 11 (R112, R113). -/
structure FixedHeader where
  marker : Bool
  payloadType : BitVec 7
  sequenceNumber : Half
  timestamp : Word
  ssrc : Word
  deriving DecidableEq, Repr

/-- M, bit 7 of byte 1 (R112). -/
def byte1Marker (b : Byte) : Bool := b.getLsbD 7

/-- PT, bits [6:0] of byte 1 (R112). -/
def byte1PayloadType (b : Byte) : BitVec 7 := b.extractLsb' 0 7

/-- Lines 8 to 12 of R151. -/
def readFixedHeader (m : Memory) (len : Nat) : Except DecodeStop FixedHeader := do
  let b ← byteAt m len 1
  let seq ← readHalf m len 2
  let ts ← readWord m len 4
  let ssrc ← readWord m len 8
  .ok ⟨byte1Marker b, byte1PayloadType b, seq, ts, ssrc⟩

/-- Lines 13 to 18 of R151: the CSRC list and CUR after it. Line 14 is kept as the hard failure the contract asks for; CC has four
bits, so it never fires (R156). -/
def readCsrcList (m : Memory) (len : Nat) (cc : BitVec 4) : Except DecodeStop (List Word × Nat) :=
  if Config.maxCsrc < cc.toNat then .error (.raise .invalidCsrcCount)
  else if cc = 0 then .ok ([], 12)
  else if len - 12 < 4 * cc.toNat then .error (.raise .bufferTooShort)
  else do
    let ws ← readWords m len 12 cc.toNat
    .ok (ws, 12 + 4 * cc.toNat)

/-- The extension block of lines 19 to 28 of R151: its two header fields, extOffset, and CUR after it. -/
structure ExtensionBlock where
  headerId : Half
  headerLength : Half
  offset : Nat
  cursor : Nat
  deriving DecidableEq, Repr

/-- Lines 20 to 26 of R151: the preamble, then the body, whose length counts bytes (R115). -/
def readExtension (m : Memory) (len cursor : Nat) : Except DecodeStop ExtensionBlock :=
  if len - cursor < 4 then .error (.raise .bufferTooShort)
  else do
    let hid ← readHalf m len cursor
    let hlen ← readHalf m len (cursor + 2)
    if len - (cursor + 4) < hlen.toNat then .error (.raise .bufferTooShort)
    else .ok ⟨hid, hlen, cursor + 4, cursor + 4 + hlen.toNat⟩

/-- Line 28 of R151: with X = 0 the extension fields are 0 and the body is the empty window at CUR (R160). -/
def noExtension (cursor : Nat) : ExtensionBlock := ⟨0, 0, cursor, cursor⟩

/-- The packet record of the parts read (lines 4 to 12, 17, 29, 30 of R151); CSRC slots from csrcCount on are free (R53). -/
def buildPacket (padding extension : Bool) (cc : BitVec 4) (h : FixedHeader) (csrc : List Word) (e : ExtensionBlock)
    (len draw : Nat) : Packet where
  version := 2
  padding := padding
  extension := extension
  csrcCount := cc
  marker := h.marker
  payloadType := h.payloadType
  sequenceNumber := h.sequenceNumber
  timestamp := h.timestamp
  ssrc := h.ssrc
  csrc := csrcFile csrc draw
  extensionHeaderId := e.headerId
  extensionHeaderLength := e.headerLength
  extOffset := e.offset
  payloadOffset := e.cursor
  payloadLength := len - e.cursor

/-! ## Host accesses -/

/-- The ten registers of the map (R31). -/
inductive Reg where
  | cmd
  | status
  | cfgGroup
  | cfgIface
  | cfgStream
  | actGroup
  | actIface
  | actStream
  | rxOkCount
  | rxDropCount
  deriving DecidableEq, Repr

/-- The register at an offset; offsets 0x28 and above are unmapped (R31, R41). -/
def Reg.ofOffset : Nat → Option Reg
  | 0x00 => some .cmd
  | 0x04 => some .status
  | 0x08 => some .cfgGroup
  | 0x0C => some .cfgIface
  | 0x10 => some .cfgStream
  | 0x14 => some .actGroup
  | 0x18 => some .actIface
  | 0x1C => some .actStream
  | 0x20 => some .rxOkCount
  | 0x24 => some .rxDropCount
  | _ => none

/-- A host access is admitted when it is 32 bits wide, aligned to 4 bytes and inside the platform's window (R85, R87; log
entry 4). -/
def HostAccess.admitted (p : Params) (a : HostAccess) : Bool :=
  decide (p.regBase ≤ a.addr) && decide (a.addr + 4 ≤ p.regBase + p.windowBytes) && decide (a.bytes = 4) &&
    decide ((a.addr - p.regBase) % 4 = 0)

/-- The offset an access reaches (R31). -/
def HostAccess.offset (p : Params) (a : HostAccess) : Nat := a.addr - p.regBase

/-- The fields of a word written to CFG_STREAM; bits [31:6] are ignored (R37). -/
def Stream.ofWord (w : Word) : Stream := ⟨w.extractLsb' 0 2, w.extractLsb' 2 2, w.extractLsb' 4 2⟩

/-- A configuration's stream word as it reads: the reserved bits are 0 (R37, R41). -/
def Stream.toWord (c : Stream) : Word := 0#26 ++ c.format ++ c.layout ++ c.rate

/-- The place of a window in PKTBUF: offset and length (R55). -/
def DispatchRecord.place (r : DispatchRecord) : Window → Nat × Nat
  | .extension => (r.extOffset, r.extensionHeaderLength.toNat)
  | .payload => (r.payloadOffset, r.payloadLength)

end Sys2Proof.Machine
end

