-- ==== Sys2Proof/Machine/Flags.lean ====
section
/-! DEFINITION. What the host sees: BUSY (R46), the numeric codes (R45, R121), the STATUS word (R33) and the value each register
reads as (R31 to R41). -/

namespace Sys2Proof.Machine

/-- The 8-bit value of an error code (R121). -/
def ErrCode.code : ErrCode → BitVec 8
  | .none => 0x00
  | .tooShort => 0x01
  | .unsupportedVersion => 0x02
  | .invalidCsrcCount => 0x03
  | .bufferTooShort => 0x04
  | .datagramTooLong => 0x05
  | .configInvalid => 0x10
  | .unsupportedSampleFormat => 0x11
  | .bindFailed => 0x12
  | .socketAllocFailed => 0x13
  | .nullPayload => 0x20
  | .bufferTooSmall => 0x21

/-- The 2-bit value of STATE (R45). -/
def Session.code : Session → BitVec 2
  | .stopped => 0
  | .starting => 1
  | .running => 2
  | .stopping => 3

/-- BUSY is 1 exactly in Starting and Stopping (R46). -/
def State.busy (s : State) : Bool :=
  match s.session with
  | .stopped => false
  | .starting => true
  | .running => false
  | .stopping => true

/-- The STATUS word (R33): reserved, LAST_DECODE_ERR, SESSION_ERR, reserved, RUN, SOCK_BOUND, PERF_HINT, BUSY, STATE. -/
def State.status (s : State) : Word :=
  0#8 ++ s.lastDecodeErr.code ++ s.sessionErr.code ++ 0#2 ++ BitVec.ofBool s.run ++ BitVec.ofBool s.sockBound ++
    BitVec.ofBool s.perfHint ++ BitVec.ofBool s.busy ++ s.session.code

/-- What a register reads as; CMD reads 0 (R31 to R40). -/
def State.readReg (s : State) : Reg → Word
  | .cmd => 0
  | .status => s.status
  | .cfgGroup => s.cfg.group
  | .cfgIface => s.cfg.iface
  | .cfgStream => s.cfg.stream.toWord
  | .actGroup => s.act.group
  | .actIface => s.act.iface
  | .actStream => s.act.stream.toWord
  | .rxOkCount => s.rxOkCount
  | .rxDropCount => s.rxDropCount

/-- What an offset of the window reads as; an unmapped one reads 0 (R41). -/
def State.readOffset (s : State) (offset : Nat) : Word :=
  match Reg.ofOffset offset with
  | some r => s.readReg r
  | none => 0

end Sys2Proof.Machine
end

