-- ==== Sys2Proof/Machine/Commands.lean ====
section
/-! DEFINITION. The family CMD: what a command word does when the Host writes it to CMD (R232 to R243). A command is always
accepted as a step; while BUSY is 1 it has no effect. -/

namespace Sys2Proof.Machine

/-- Command acceptance (R232): no effect while BUSY, else the rule for the session state, which is then Stopped or Running. -/
def hostCommand (inStopped inRunning : State → State) (s : State) : Host.Outcome State Fault Refusal :=
  if s.busy then .next s
  else
    match s.session with
    | .stopped => .next (inStopped s)
    | .running => .next (inRunning s)
    | .starting => .next s
    | .stopping => .next s

/-- CMD.NOP: no state changes (R233). -/
def execCmdNop (_ignored : BitVec 28) (s : State) : Host.Outcome State Fault Refusal :=
  hostCommand id id s

/-- CMD.START: in Stopped the latch and StartSequence (R234), in Running no effect (R238). -/
def execCmdStart (_ignored : BitVec 28) (s : State) : Host.Outcome State Fault Refusal :=
  hostCommand (fun t => startSequence (latchConfig t)) id s

/-- CMD.STOP: in Stopped no effect (R240), in Running the move to Stopping (R239). -/
def execCmdStop (_ignored : BitVec 28) (s : State) : Host.Outcome State Fault Refusal :=
  hostCommand id (beginStopping false) s

/-- CMD.RECONFIGURE: in Stopped as START (R242), in Running the latch and a stop with a restart (R243). -/
def execCmdReconfigure (_ignored : BitVec 28) (s : State) : Host.Outcome State Fault Refusal :=
  hostCommand (fun t => startSequence (latchConfig t)) (fun t => beginStopping true (latchConfig t)) s

/-- CMD.RSVD, OPCODE 0x4 to 0x7: no effect, like NOP (R233). -/
def execCmdRsvdLow (_opcode : BitVec 4) (_ignored : BitVec 28) (s : State) : Host.Outcome State Fault Refusal :=
  hostCommand id id s

/-- CMD.RSVD, OPCODE 0x8 to 0xF: no effect, like NOP (R233). -/
def execCmdRsvdHigh (_opcode : BitVec 4) (_ignored : BitVec 28) (s : State) : Host.Outcome State Fault Refusal :=
  hostCommand id id s

end Sys2Proof.Machine
end

