-- ==== Sys2Proof/Machine/DecForms.lean ====
section
/-! DEFINITION. The family DEC: what the Process step does with a datagram of each packet form (R152 to R154, R284). The operands P and
CC are byte 0's, as decoded; every other field is read from PKTBUF (R150). -/

namespace Sys2Proof.Machine

/-- The Process step with the result of its decode (R284). A read outside the buffer's datagram is the fault R82 asks for. -/
def processResult (r : DecodeResult) (s : State) : Host.Outcome State Fault Refusal :=
  match r with
  | .ok p => .next (acceptPacket p s)
  | .error (.raise c) => .next (failDecode c s)
  | .error (.noByte a) => .fault (.byteNotReadable a)

/-- Process is enabled only with LOOP = Process (R284). -/
def inProcess (r : DecodeResult) (s : State) : Host.Outcome State Fault Refusal :=
  if s.loop = .process then processResult r s else .fault .stepNotEnabled

/-- DEC.V2: lines 1 to 18 and 27 to 31 of R151 (R152). -/
def decodeV2 (padding : Bool) (cc : BitVec 4) (m : Memory) (len draw : Nat) : DecodeResult :=
  if len ≤ 12 then .error (.raise .tooShort)
  else do
    let h ← readFixedHeader m len
    let (csrc, cursor) ← readCsrcList m len cc
    .ok (buildPacket padding false cc h csrc (noExtension cursor) len draw)

/-- DEC.V2X: lines 1 to 26 and 29 to 31 of R151 (R153). -/
def decodeV2X (padding : Bool) (cc : BitVec 4) (m : Memory) (len draw : Nat) : DecodeResult :=
  if len ≤ 12 then .error (.raise .tooShort)
  else do
    let h ← readFixedHeader m len
    let (csrc, cursor) ← readCsrcList m len cc
    let e ← readExtension m len cursor
    .ok (buildPacket padding true cc h csrc e len draw)

/-- DEC.V0, DEC.V1, DEC.V3: lines 1 to 3 of R151; no other byte is read (R154). -/
def decodeUnsupported (len : Nat) : DecodeResult :=
  if len ≤ 12 then .error (.raise .tooShort) else .error (.raise .unsupportedVersion)

/-- DEC.V2 (R152). -/
def execDecV2 (padding : Bool) (cc : BitVec 4) (s : State) : Host.Outcome State Fault Refusal :=
  inProcess (decodeV2 padding cc s.pktBuf s.bufLen s.draws) s

/-- DEC.V2X (R153). -/
def execDecV2X (padding : Bool) (cc : BitVec 4) (s : State) : Host.Outcome State Fault Refusal :=
  inProcess (decodeV2X padding cc s.pktBuf s.bufLen s.draws) s

/-- DEC.V0 (R154). -/
def execDecV0 (_rest : BitVec 6) (s : State) : Host.Outcome State Fault Refusal :=
  inProcess (decodeUnsupported s.bufLen) s

/-- DEC.V1 (R154). -/
def execDecV1 (_rest : BitVec 6) (s : State) : Host.Outcome State Fault Refusal :=
  inProcess (decodeUnsupported s.bufLen) s

/-- DEC.V3 (R154). -/
def execDecV3 (_rest : BitVec 6) (s : State) : Host.Outcome State Fault Refusal :=
  inProcess (decodeUnsupported s.bufLen) s

end Sys2Proof.Machine
end

