-- ==== Sys2Proof/Machine/Dispatch.lean ====
section
/-! DEFINITION. One arm per instruction of the opcode table. -/

namespace Sys2Proof.Machine

def exec (i : Instr) (s : State) : Host.Outcome State Fault Refusal :=
  match i with
  | .decV2 p cc => Sys2Proof.Machine.execDecV2 p cc s
  | .decV2X p cc => Sys2Proof.Machine.execDecV2X p cc s
  | .decV0 rest => Sys2Proof.Machine.execDecV0 rest s
  | .decV1 rest => Sys2Proof.Machine.execDecV1 rest s
  | .decV3 rest => Sys2Proof.Machine.execDecV3 rest s
  | .cmdNop ign => Sys2Proof.Machine.execCmdNop ign s
  | .cmdStart ign => Sys2Proof.Machine.execCmdStart ign s
  | .cmdStop ign => Sys2Proof.Machine.execCmdStop ign s
  | .cmdReconfigure ign => Sys2Proof.Machine.execCmdReconfigure ign s
  | .cmdRsvdLow op ign => Sys2Proof.Machine.execCmdRsvdLow op ign s
  | .cmdRsvdHigh op ign => Sys2Proof.Machine.execCmdRsvdHigh op ign s

end Sys2Proof.Machine
end

