-- ==== Sys2Proof/Machine/Agents.lean ====
section
/-! DEFINITION. The agents' steps that are not themselves instructions (42_session_control.md, 43_receive_framing.md,
70_reset_and_hazards.md), and, for the two that run one (a host write to CMD, and Process), the fetching of it. -/

namespace Sys2Proof.Machine

/-- What a move comes to: an instruction to run on a state, or an outcome. -/
inductive Action where
  | run (i : Instr) (s : State)
  | done (o : Host.Outcome State Fault Refusal)
  deriving Repr

/-- A step whose enabling condition does not hold is no step (R326). -/
def notEnabled : Action := .done (.fault .stepNotEnabled)

/-- A step that takes the state to another. -/
def becomes (s : State) : Action := .done (.next s)

/-! ## Host -/

/-- A write to a register (R31 to R37): CMD issues a command (R232), CFG_* store the word, and the rest ignore it. -/
def writeReg (r : Reg) (w : Word) (s : State) : Action :=
  match r with
  | .cmd => .run (decodeCommand w) s
  | .cfgGroup => becomes { s with cfg := { s.cfg with group := w } }
  | .cfgIface => becomes { s with cfg := { s.cfg with iface := w } }
  | .cfgStream => becomes { s with cfg := { s.cfg with stream := Stream.ofWord w } }
  | .status => becomes s
  | .actGroup => becomes s
  | .actIface => becomes s
  | .actStream => becomes s
  | .rxOkCount => becomes s
  | .rxDropCount => becomes s

/-- One admitted host access (R88): a read returns the offset's value and has no side effect (R89), a write to an unmapped
offset has no effect (R41). -/
def hostAccess (kind : AccessKind) (offset : Nat) (s : State) : Action :=
  match kind with
  | .read => becomes { s with hostRead := some (s.readOffset offset) }
  | .write w =>
    match Reg.ofOffset offset with
    | some r => writeReg r w s
    | none => becomes s

/-- The Host's next access, in program order (R92). An access the block does not admit has no step: it stays at the head
and the Host is stuck at it (R87). -/
def hostStep (s : State) : Action :=
  match s.hostProgram with
  | [] => notEnabled
  | a :: rest =>
    if a.admitted s.params then hostAccess a.kind (a.offset s.params) { s with hostProgram := rest }
    else .done (.fault .accessNotAdmitted)

/-! ## Net -/

/-- BIND_RESP while STATE = Starting (R236, R237). -/
def bindRespStep (v : BindVerdict) (s : State) : Action :=
  match s.session, s.net.request with
  | .starting, some b =>
    match v with
    | .ok => becomes (beginRunning b s)
    | .bindFailed => becomes (failBind .bindFailed s)
    | .socketAllocFailed => becomes (failBind .socketAllocFailed s)
  | _, _ => notEnabled

/-- A datagram for the binding arrives: it joins the queue's end, or is lost when the queue is full (R57, R291). Without a
binding Net delivers nothing. -/
def netArriveStep (d : List Byte) (s : State) : Action :=
  match s.net.binding with
  | none => notEnabled
  | some _ =>
    if s.net.queue.length < s.params.netQueueDepth then
      becomes { s with net := { s.net with queue := s.net.queue ++ [d] } }
    else becomes s

/-- Net loses a datagram; the others keep their order (R291; log entry 13). -/
def netLoseStep (place : Nat) (s : State) : Action :=
  if place < s.net.queue.length then becomes { s with net := { s.net with queue := s.net.queue.eraseIdx place } }
  else notEnabled

/-! ## Loop and Timer -/

/-- Check (R281): the only step that reads RUN. -/
def checkStep (s : State) : Action :=
  if s.loop = .check then becomes { s with loop := if s.run then .wait else .idle } else notEnabled

/-- RX_DATAGRAM (R282): the queue's head is taken; an over-long one is dropped. -/
def rxDatagramStep (s : State) : Action :=
  match s.loop, s.net.queue with
  | .wait, d :: rest =>
    if s.params.maxDatagram < d.length then
      becomes (dropDatagram .datagramTooLong { s with net := { s.net with queue := rest } })
    else becomes (ingest d { s with net := { s.net with queue := rest } })
  | _, _ => notEnabled

/-- RX_TIMEOUT (R283). -/
def rxTimeoutStep (s : State) : Action :=
  if s.loop = .wait then becomes { s with loop := .check } else notEnabled

/-- Process (R284). With L ≤ 12 no form is selected and no byte is read (R120, R155); else byte 0 selects the form to run. -/
def processStep (s : State) : Action :=
  if s.loop = .process then
    if s.bufLen ≤ 12 then becomes (failDecode .tooShort s)
    else
      match byteAt s.pktBuf s.bufLen 0 with
      | .ok b => .run (decodeForm b) s
      | .error _ => .done (.fault (.byteNotReadable 0))
  else notEnabled

/-! ## Down -/

/-- SINK_ACK (R286). -/
def sinkAckStep (s : State) : Action :=
  if s.loop = .dispatch then becomes (endDispatch s) else notEnabled

/-- CONV_FATAL (R287). -/
def convFatalStep (s : State) : Action :=
  if s.loop = .dispatch then becomes (fatalReport s) else notEnabled

/-- Down reads byte `index` of a window. While the offer is pending it reads PKTBUF inside the window (R55, R82, R95); with no offer
pending the windows have no defined contents (R372, U27; log entry 15). -/
def downReadStep (w : Window) (index : Nat) (s : State) : Action :=
  match s.offer with
  | some r =>
    if index < (r.place w).2 then
      match byteAt s.pktBuf s.bufLen ((r.place w).1 + index) with
      | .ok b => becomes { s with downRead := some b }
      | .error _ => .done (.fault (.byteNotReadable ((r.place w).1 + index)))
    else notEnabled
  | none => becomes { s with downRead := some (freeByte s.draws), draws := s.draws + 1 }

/-! ## Block control -/

/-- Stop completion, enabled when STATE = Stopping and LOOP = Idle (R241). -/
def completeStep (s : State) : Action :=
  if s.session = .stopping ∧ s.loop = .idle then becomes (completeStop s) else notEnabled

/-! ## Any move -/

/-- What a move comes to in a state (R19, R327). -/
def moveAction (mv : Move) (s : State) : Action :=
  match mv with
  | .host => hostStep s
  | .bindResp v => bindRespStep v s
  | .netArrive d => netArriveStep d s
  | .netLose k => netLoseStep k s
  | .check => checkStep s
  | .rxDatagram => rxDatagramStep s
  | .rxTimeout => rxTimeoutStep s
  | .process => processStep s
  | .sinkAck => sinkAckStep s
  | .convFatal => convFatalStep s
  | .downRead w k => downReadStep w k s
  | .complete => completeStep s
  | .reset => becomes (resetBlock s)

/-- The next step: the head of the schedule, taken off it (log entry 1). -/
def nextAction (s : State) : Action :=
  match s.schedule with
  | [] => .done (.fault .noMoveScheduled)
  | mv :: rest => moveAction mv { s with schedule := rest }

end Sys2Proof.Machine
end

