-- ==== Sys2Proof/Machine/Loader.lean ====
section
/-! DEFINITION. Placing code where the next step takes it from (log entry 7): a command as the Host's next access, a datagram in PKTBUF
with the loop at Process. -/

namespace Sys2Proof.Machine

/-- The Host's next access is a write of `w` to CMD, and the Host moves next (R31, R232). -/
def placeCommand (w : Word) (s : State) : State :=
  { s with
    hostProgram := ⟨.write w, s.params.regBase, 4⟩ :: s.hostProgram
    schedule := .host :: s.schedule }

/-- A session in which a datagram can be in Process: the one at hand where a loop exists, else the one a confirmed bind
begins (R47, R236). -/
def withLoop (s : State) : State :=
  if s.loop = .idle then beginRunning (bindTriple s.act) s else s

/-- The datagram is in PKTBUF, cut to its capacity, and Process is next (R282, R284). -/
def placeDatagram (d : List Byte) (s : State) : State :=
  let t := ingest (d.take s.params.maxDatagram) (withLoop s)
  { t with schedule := .process :: t.schedule }

/-- Code placed where the next step takes it from. -/
def placeCode (c : Code) (s : State) : State :=
  match c with
  | .datagram d => placeDatagram d s
  | .command w => placeCommand w s

end Sys2Proof.Machine
end

