-- ==== Sys2Proof/Machine/Step.lean ====
section
/-! DEFINITION. One step: the scheduled move, and for the two moves that run an instruction, that instruction's meaning. -/

namespace Sys2Proof.Machine

/-- The outcome of an action. -/
def runAction : Action → Host.Outcome State Fault Refusal
  | .run i t => exec i t
  | .done o => o

/-- One step of the machine (R19, R327). -/
def step (s : State) : Host.Outcome State Fault Refusal := runAction (nextAction s)

/-- The state with an instruction's table word stored where `step` takes its next instruction from. -/
def State.withFetchWord (s : State) (nbits w : Nat) : State :=
  match tableCode nbits w with
  | some c => placeCode c s
  | none => s

end Sys2Proof.Machine
end

