-- ==== Sys2Proof/Machine/Runs.lean ====
section
/-! DEFINITION. Infinite runs, and what the spec assumes of the agents along them: the weak fairness of the Loop in Wait (R292, D26, U16),
and Down's duty to answer (R293). No step reads these: they are premises of statements about runs. -/

namespace Sys2Proof.Machine

/-- The state in which this move comes next and the Host has issued these accesses after the ones it still had (log entries 1 and 4). -/
def State.withInput (mv : Move) (accesses : List HostAccess) (s : State) : State :=
  { s with schedule := [mv], hostProgram := s.hostProgram ++ accesses }

/-- An infinite run: at every index one enabled step of one agent (R19, R327), and what the Host issues before it (R92). -/
def IsRun (states : Nat → State) (moves : Nat → Move) (accesses : Nat → List HostAccess) : Prop :=
  ∀ n, step ((states n).withInput (moves n) (accesses n)) = .next (states (n + 1))

/-- Weak fairness of a phase: a Loop that stays in it for ever takes one of these moves. -/
def FairInPhase (phase : Phase) (answers : List Move) (states : Nat → State) (moves : Nat → Move) : Prop :=
  ∀ n, (∀ m ≥ n, (states m).loop = phase) → ∃ m ≥ n, moves m ∈ answers

/-- R292: a Loop that stays in Wait eventually takes rule R282 or rule R283. -/
def FairInWait (states : Nat → State) (moves : Nat → Move) : Prop :=
  FairInPhase .wait [.rxDatagram, .rxTimeout] states moves

/-- The Loop takes its own steps: it stays for ever neither in Check nor in Process (log entry 28). -/
def LoopProceeds (states : Nat → State) (moves : Nat → Move) : Prop :=
  FairInPhase .check [.check] states moves ∧ FairInPhase .process [.process] states moves

/-- R293: Down answers a DISPATCH. That it answers only once needs no premise, since an answer ends the dispatch (R286, R287). -/
def DownAnswers (states : Nat → State) (moves : Nat → Move) : Prop :=
  FairInPhase .dispatch [.sinkAck, .convFatal] states moves

end Sys2Proof.Machine
end

