-- ==== Sys2Proof/Machine/Reference.lean ====
section
/-! DEFINITION. DECODE as the one normative function of R151, and the reference functions ByteCount and Encode with the abstract packet
they take (R200 to R206). No step of the machine calls these: the Process step runs the packet forms, and the laws are
stated through them (R5). -/

namespace Sys2Proof.Machine

/-! ## DECODE -/

/-- DECODE(PKTBUF, L), the lines of R151 in order. `draw` numbers the free values of the CSRC slots from csrcCount on (R53). -/
def decodePacket (m : Memory) (len draw : Nat) : DecodeResult :=
  if len ≤ 12 then .error (.raise .tooShort)
  else do
    let b ← byteAt m len 0
    if byte0Version b ≠ 2 then .error (.raise .unsupportedVersion)
    else do
      let h ← readFixedHeader m len
      let (csrc, cursor) ← readCsrcList m len (byte0CsrcCount b)
      if byte0Extension b then do
        let e ← readExtension m len cursor
        .ok (buildPacket (byte0Padding b) true (byte0CsrcCount b) h csrc e len draw)
      else .ok (buildPacket (byte0Padding b) false (byte0CsrcCount b) h csrc (noExtension cursor) len draw)

/-! ## The abstract packet -/

/-- A packet with sequences in place of windows (41_reference_functions.md). `payload` is none for the source's "no payload buffer
is set". The counts are naturals, so that the bounds of R201 are checks. -/
structure AbstractPacket where
  version : BitVec 2
  padding : Bool
  extension : Bool
  csrcCount : Nat
  marker : Bool
  payloadType : BitVec 7
  sequenceNumber : Half
  timestamp : Word
  ssrc : Word
  csrc : List Word
  extensionHeaderId : Half
  extensionHeaderLength : Nat
  ext : List Byte
  payloadLength : Nat
  payload : Option (List Byte)
  deriving DecidableEq, Repr

/-- `abs(p)`: the windows read out of PKTBUF, the CSRC list cut to csrcCount entries; none where a window's byte is not listed. -/
def abstractPacket (m : Memory) (p : Packet) : Option AbstractPacket :=
  match m.window p.extOffset p.extensionHeaderLength.toNat, m.window p.payloadOffset p.payloadLength with
  | some ext, some payload =>
    some
      { version := p.version
        padding := p.padding
        extension := p.extension
        csrcCount := p.csrcCount.toNat
        marker := p.marker
        payloadType := p.payloadType
        sequenceNumber := p.sequenceNumber
        timestamp := p.timestamp
        ssrc := p.ssrc
        csrc := p.csrc.toList.take p.csrcCount.toNat
        extensionHeaderId := p.extensionHeaderId
        extensionHeaderLength := p.extensionHeaderLength.toNat
        ext := ext
        payloadLength := p.payloadLength
        payload := some payload }
  | _, _ => none

/-- ByteCount (R200). -/
def byteCount (q : AbstractPacket) : Nat :=
  12 + 4 * q.csrcCount + q.payloadLength + (if q.extension then 4 + q.extensionHeaderLength else 0)

/-- Encode is defined (R202): clause 2, the first half of clause 3 and clause 5 of R201, and a payload that is present has its
declared length. DESIGN CHOICE (log entry 27): no bound on payloadLength, as in `AbstractPacket.valid`. -/
abbrev AbstractPacket.encodable (q : AbstractPacket) : Prop :=
  q.csrcCount ≤ Config.maxCsrc ∧ q.csrc.length = q.csrcCount ∧
    (q.extension = true → q.ext.length = q.extensionHeaderLength) ∧ q.extensionHeaderLength < 2 ^ 16 ∧
    (∀ d ∈ q.payload, d.length = q.payloadLength)

/-- A valid abstract packet (R201, clauses 1 to 5; the widths of clause 5 that the field types do not give are the last). DESIGN CHOICE
(log entry 27): clause 5 asks for the widths of R52 and its list leaves payloadLength out; it has no bound here. -/
abbrev AbstractPacket.valid (q : AbstractPacket) : Prop :=
  q.version = 2 ∧ (q.csrcCount ≤ Config.maxCsrc ∧ q.csrc.length = q.csrcCount) ∧
    ((q.extension = true → q.ext.length = q.extensionHeaderLength) ∧
      (q.extension = false → q.extensionHeaderId = 0 ∧ q.extensionHeaderLength = 0 ∧ q.ext = [])) ∧
    (∃ d ∈ q.payload, d.length = q.payloadLength) ∧ q.extensionHeaderLength < 2 ^ 16

/-- BE16 (R15). -/
def be16 (v : Half) : List Byte := [v.extractLsb' 8 8, v.extractLsb' 0 8]

/-- BE32 (R15). -/
def be32 (v : Word) : List Byte :=
  [v.extractLsb' 24 8, v.extractLsb' 16 8, v.extractLsb' 8 8, v.extractLsb' 0 8]

/-- Line 4 of R203: byte 0 of the encoding. -/
def encodeByte0 (q : AbstractPacket) : Byte :=
  q.version ++ BitVec.ofBool q.padding ++ BitVec.ofBool q.extension ++ BitVec.ofNat 4 q.csrcCount

/-- Line 5 of R203: byte 1 of the encoding. -/
def encodeByte1 (q : AbstractPacket) : Byte := BitVec.ofBool q.marker ++ q.payloadType

/-- Lines 8 and 9 of R203: the extension block. -/
def encodeExtension (q : AbstractPacket) : List Byte :=
  if q.extension then be16 q.extensionHeaderId ++ be16 (BitVec.ofNat 16 q.extensionHeaderLength) ++ q.ext else []

/-- Lines 4 to 10 of R203: the bytes. -/
def encodeBytes (q : AbstractPacket) : List Byte :=
  [encodeByte0 q, encodeByte1 q] ++ be16 q.sequenceNumber ++ be32 q.timestamp ++ be32 q.ssrc ++ q.csrc.flatMap be32 ++
    encodeExtension q ++ q.payload.getD []

/-- The result of Encode (R202): bytes, an error, or no meaning at all. -/
inductive EncodeResult where
  | ok (bytes : List Byte)
  | err (c : ErrCode)
  | undefined
  deriving DecidableEq, Repr

/-- Encode(q, cap) (R202, R203): NULL_PAYLOAD is checked before BUFFER_TOO_SMALL. -/
def encodePacket (q : AbstractPacket) (cap : Nat) : EncodeResult :=
  if q.encodable then
    if 0 < q.payloadLength ∧ q.payload = none then .err .nullPayload
    else if cap < byteCount q then .err .bufferTooSmall
    else .ok (encodeBytes q)
  else .undefined

/-- A datagram alone in an empty PKTBUF, as ingress leaves it (R282). -/
def memoryOf (d : List Byte) : Memory := Memory.writeBytes [] 0 d

end Sys2Proof.Machine
end

