-- ==== Sys2Proof/Safety.lean ====
section
/-! DEFINITION. What counts as a legal state and a safe run, in the terms the statements use. -/

namespace Sys2Proof.Machine

/-- Every byte of the datagram in PKTBUF has a value: what a decode needs to run without a forbidden read (R82, R158). -/
abbrev State.bufferFilled (s : State) : Prop := ∀ a < s.bufLen, (s.pktBuf.read a).isSome

/-- The rows of the table of R231. -/
abbrev State.sessionTable (s : State) : Prop :=
  match s.session with
  | .stopped =>
    s.run = false ∧ s.restart = false ∧ s.loop = .idle ∧ s.sockBound = false ∧ s.perfHint = false
  | .starting =>
    s.run = false ∧ s.restart = false ∧ s.loop = .idle ∧ s.sockBound = false ∧ s.perfHint = false
  | .running => s.run = true ∧ s.restart = false ∧ s.loop ≠ .idle ∧ s.sockBound = true ∧ s.perfHint = true
  | .stopping => s.run = false ∧ s.sockBound = true ∧ s.perfHint = true

/-- A configuration StartSequence accepts (R124, R235 lines 1 to 3). -/
abbrev SessionConfig.legal (c : SessionConfig) : Prop :=
  c.group ≠ 0 ∧ c.stream.formatLegal = true ∧ c.stream.rateOrLayoutReserved = false

/-- The codes SESSION_ERR may hold (R42). -/
def ErrCode.isSessionErr : ErrCode → Bool
  | .none | .configInvalid | .unsupportedSampleFormat | .bindFailed | .socketAllocFailed => true
  | .tooShort | .unsupportedVersion | .invalidCsrcCount | .bufferTooShort | .datagramTooLong | .nullPayload
  | .bufferTooSmall => false

/-- The codes LAST_DECODE_ERR may hold (R43): those a drop records, INVALID_CSRC_COUNT left out since nothing raises it (R156). -/
def ErrCode.isDropErr : ErrCode → Bool
  | .none | .tooShort | .unsupportedVersion | .bufferTooShort | .datagramTooLong => true
  | .invalidCsrcCount | .configInvalid | .unsupportedSampleFormat | .bindFailed | .socketAllocFailed | .nullPayload
  | .bufferTooSmall => false

/-- The windows of a packet lie inside the datagram and the parts of R110 tile it (R82, R158, R163). -/
abbrev Packet.tiles (p : Packet) (len : Nat) : Prop :=
  p.payloadOffset + p.payloadLength = len ∧ p.extOffset + p.extensionHeaderLength.toNat = p.payloadOffset ∧
    p.extOffset = 12 + 4 * p.csrcCount.toNat + (if p.extension then 4 else 0)

/-- The invariant of the machine: what holds at reset and after every step. -/
structure State.Inv (s : State) : Prop where
  /-- The parameters are legal (R9). -/
  params : s.params.wf
  /-- The table of R231. -/
  session : s.sessionTable
  /-- ACT_* holds an accepted configuration whenever a session exists (R235). -/
  active : s.session ≠ .stopped → s.act.legal
  /-- PKTBUF is in canonical form, within its capacity, and holds its datagram (R50, R51). -/
  bufferForm : s.pktBuf.wf
  bufferBound : ∀ c ∈ s.pktBuf, c.1 < s.params.maxDatagram
  bufLen : s.bufLen ≤ s.params.maxDatagram
  filled : s.bufferFilled
  /-- PKT_VALID is 1 exactly in Dispatch (R54), when Down holds the record of PKT under ACT_STREAM (R285) and the packet's windows lie
  inside the datagram (R82). -/
  valid : s.pktValid = true ↔ s.loop = .dispatch
  offer : s.offer = if s.loop = .dispatch then some (dispatchRecord s.pkt s.act.stream) else none
  windows : s.loop = .dispatch → s.pkt.tiles s.bufLen ∧ s.pkt.version = 2
  /-- Net owes an answer exactly in Starting, for ACT_* (R245); it holds a binding exactly while SOCK_BOUND is 1 (R49, R57); without one
  its queue is empty, and the queue keeps its capacity. -/
  request : s.net.request = if s.session = .starting then some (bindTriple s.act) else none
  binding : s.net.binding = if s.sockBound then some (bindTriple s.act) else none
  unbound : s.sockBound = false → s.net.queue = []
  depth : s.net.queue.length ≤ s.params.netQueueDepth
  /-- The error registers hold codes their rules give them (R42, R43, R122), and none is pending in Starting and Running (R235). -/
  sessionCode : s.sessionErr.isSessionErr = true
  dropCode : s.lastDecodeErr.isDropErr = true
  noPending : s.session = .starting ∨ s.session = .running → s.sessionErr = .none

/-- A safe outcome: it is not a read of PKTBUF that R82 forbids. -/
def Safe : Host.Outcome State Fault Refusal → Bool
  | .fault (.byteNotReadable _) => false
  | .fault .noMoveScheduled => true
  | .fault .stepNotEnabled => true
  | .fault .accessNotAdmitted => true
  | .next _ => true
  | .refused _ => true

/-! ## Terms of the statements -/

/-- The instructions of the two families. -/
def isForm : Instr → Bool
  | .decV2 _ _ => true
  | .decV2X _ _ => true
  | .decV0 _ => true
  | .decV1 _ => true
  | .decV3 _ => true
  | .cmdNop _ => false
  | .cmdStart _ => false
  | .cmdStop _ => false
  | .cmdReconfigure _ => false
  | .cmdRsvdLow _ _ => false
  | .cmdRsvdHigh _ _ => false

/-- The Host's next access writes a word with this OPCODE to CMD (R32, R125). -/
def State.hostWritesCommand (s : State) (opcode : BitVec 4) : Prop :=
  ∃ (w : Word) (more : List HostAccess),
    s.hostProgram = ⟨.write w, s.params.regBase, 4⟩ :: more ∧ w.extractLsb' 0 4 = opcode

/-- The packet's fields of bytes 1 to 11 and its CSRC entries are those of a datagram of length `len` (R112 to R114). -/
def Packet.headerFrom (p : Packet) (m : Memory) (len : Nat) : Prop :=
  (∃ b, m.read 1 = some b ∧ p.marker = b.getLsbD 7 ∧ p.payloadType = b.extractLsb' 0 7) ∧
    memRead m len 2 2 = .ok p.sequenceNumber.toNat ∧ memRead m len 4 4 = .ok p.timestamp.toNat ∧
    memRead m len 8 4 = .ok p.ssrc.toNat ∧
    ∀ (i : Nat) (h : i < 15), i < p.csrcCount.toNat → memRead m len (12 + 4 * i) 4 = .ok p.csrc[i].toNat

/-- Two results of DECODE are equal but for the CSRC slots at csrcCount and above, which hold any value (R164, R53). -/
def sameDecode : DecodeResult → DecodeResult → Prop
  | .ok p, .ok q =>
    p = { q with csrc := p.csrc } ∧ ∀ (i : Nat) (h : i < 15), i < p.csrcCount.toNat → p.csrc[i] = q.csrc[i]
  | .error e, .error f => e = f
  | .ok _, .error _ => False
  | .error _, .ok _ => False

/-- What a drop in Process records and leaves (R284, R321): the code, the count, LOOP at Check; PKT and CUR are then unspecified
(R159) and nothing else changes. -/
def droppedWith (c : ErrCode) (s t : State) : Prop :=
  t = { s with
    lastDecodeErr := c
    rxDropCount := s.rxDropCount + 1
    loop := .check
    pkt := t.pkt
    cur := t.cur
    draws := t.draws }

/-- What a successful Process does besides filling PKT (R284, R285): PKT_VALID, the count, LOOP at Dispatch and the offer; CUR is
then unspecified (R56) and nothing else changes. -/
def acceptedWith (s t : State) : Prop :=
  t = { s with
    pkt := t.pkt
    pktValid := true
    rxOkCount := s.rxOkCount + 1
    loop := .dispatch
    offer := some (dispatchRecord t.pkt s.act.stream)
    cur := t.cur
    draws := t.draws }

end Sys2Proof.Machine
end

