-- ==== Sys2Proof/Certificates/Slice0/Obligations.lean ====
section
/-! DEFINITION. The statements for the provers. Each docstring names the rules it formalises; what a free value holds (log entry 10) enters
no statement. -/

open Sys2Proof Sys2Proof.Machine

/-! ## Encoding -/

/-- Every well-formed instruction is what its own words decode to (R111, R120, R125, R126). -/
def Obligations.DecodeOfEncodeIsTheInstruction : Prop :=
  ∀ i : Instr, i.wf = true → decodeWord (encode i) = i

/-- Decoding keeps every bit of its word, and gives a well-formed instruction (R120, R125, R126). -/
def Obligations.EncodeOfDecodeIsTheWord : Prop :=
  ∀ c : CodeWord, (decodeWord c).wf = true ∧ encode (decodeWord c) = c

/-- Words written out from R111, R120 and R126 decode to the instructions they stand for. -/
def Obligations.WordsFromTheSpecDecode : Prop :=
  decodeForm 0b10100011 = .decV2 true 3 ∧ decodeForm 0b10011111 = .decV2X false 15 ∧
    decodeForm 0b00101010 = .decV0 0b101010 ∧ decodeForm 0b01000001 = .decV1 1 ∧ decodeForm 0b11111111 = .decV3 63 ∧
    decodeCommand 0x00000000 = .cmdNop 0 ∧ decodeCommand 0xFFFFFFF1 = .cmdStart 0xFFFFFFF ∧
    decodeCommand 0x00000002 = .cmdStop 0 ∧ decodeCommand 0x00000013 = .cmdReconfigure 1 ∧
    decodeCommand 0x00000004 = .cmdRsvdLow 4 0 ∧ decodeCommand 0x0000000F = .cmdRsvdHigh 15 0

/-- R120: with L > 12 byte 0 selects the form by the masks of its table, and one of them always matches; with L ≤ 12 no form is
selected. -/
def Obligations.ByteZeroSelectsThePacketForm : Prop :=
  ∀ (b : Byte) (d : List Byte),
    decode (.datagram []) = .error .tooShort ∧
    (d.length < 12 → decode (.datagram (b :: d)) = .error .tooShort) ∧
    (12 ≤ d.length → decode (.datagram (b :: d)) = .ok (decodeForm b)) ∧
    (b &&& 0xD0 = 0x80 → decodeForm b = .decV2 (b.getLsbD 5) (b.extractLsb' 0 4)) ∧
    (b &&& 0xD0 = 0x90 → decodeForm b = .decV2X (b.getLsbD 5) (b.extractLsb' 0 4)) ∧
    (b &&& 0xC0 = 0x00 → decodeForm b = .decV0 (b.extractLsb' 0 6)) ∧
    (b &&& 0xC0 = 0x40 → decodeForm b = .decV1 (b.extractLsb' 0 6)) ∧
    (b &&& 0xC0 = 0xC0 → decodeForm b = .decV3 (b.extractLsb' 0 6)) ∧
    (b &&& 0xD0 = 0x80 ∨ b &&& 0xD0 = 0x90 ∨ b &&& 0xC0 = 0x00 ∨ b &&& 0xC0 = 0x40 ∨ b &&& 0xC0 = 0xC0)

/-- R126: bits [3:0] of a command word select the command. -/
def Obligations.OpcodeSelectsTheCommand : Prop :=
  ∀ w : Word,
    (w &&& 0xF = 0x0 → decode (.command w) = .ok (.cmdNop (w.extractLsb' 4 28))) ∧
    (w &&& 0xF = 0x1 → decode (.command w) = .ok (.cmdStart (w.extractLsb' 4 28))) ∧
    (w &&& 0xF = 0x2 → decode (.command w) = .ok (.cmdStop (w.extractLsb' 4 28))) ∧
    (w &&& 0xF = 0x3 → decode (.command w) = .ok (.cmdReconfigure (w.extractLsb' 4 28))) ∧
    (w &&& 0xC = 0x4 → decode (.command w) = .ok (.cmdRsvdLow (w.extractLsb' 0 4) (w.extractLsb' 4 28))) ∧
    (w &&& 0x8 = 0x8 → decode (.command w) = .ok (.cmdRsvdHigh (w.extractLsb' 0 4) (w.extractLsb' 4 28)))

/-- Every word of either code space matches exactly one of the eleven rows of the opcode table, the row of the instruction it
decodes to. -/
def Obligations.EveryWordHasExactlyOneRow : Prop :=
  ∀ (c : CodeWord) (k : Nat) (h : k < opcodeTable.length),
    (opcodeTable[k]).matches c = true ↔ k = (decodeWord c).rowIndex

/-- R125: a command's effect depends on bits [3:0] of its word alone. -/
def Obligations.CommandIgnoresBitsAboveOpcode : Prop :=
  ∀ (w w' : Word) (s : State),
    w.extractLsb' 0 4 = w'.extractLsb' 0 4 → exec (decodeCommand w) s = exec (decodeCommand w') s

/-! ## A step runs the decoded instruction -/

/-- When the Host's next access writes a word to CMD and the Host moves next, the step runs the command the word decodes to, after taking
the move and the access off their lists. -/
def Obligations.StepRunsTheCommandWritten : Prop :=
  ∀ (s : State) (w : Word) (i : Instr) (rest : List Move) (more : List HostAccess),
    s.params.wf → s.schedule = .host :: rest → s.hostProgram = ⟨.write w, s.params.regBase, 4⟩ :: more →
    decode (.command w) = .ok i →
    step s = exec i { s with schedule := rest, hostProgram := more }

/-- When a datagram longer than 12 bytes is in Process and Process is the next move, the step runs the form the datagram
decodes to, after taking the move off its list. -/
def Obligations.StepRunsTheFormOfTheDatagram : Prop :=
  ∀ (s : State) (d : List Byte) (i : Instr) (rest : List Move),
    s.schedule = .process :: rest → s.loop = .process → s.pktBuf.window 0 s.bufLen = some d →
    decode (.datagram d) = .ok i →
    step s = exec i { s with schedule := rest }

/-- A step is taken only where its rule enables it: Host with an access left, BIND_RESP in Starting with a request outstanding, Net's
arrivals with a binding, Check in Check, RX_DATAGRAM in Wait with a datagram queued, RX_TIMEOUT in Wait, Process in Process,
Down's answers in Dispatch, completion in Stopping with LOOP Idle (R281 to R287, R236, R237, R241, R326). No step writes the parameters
(R59). Five clauses are the model's: the request outstanding (log entry 14), the binding of an arrival and the place of a loss (log entry 13,
from R57 and R291), the index inside a window of Down's read (log entry 15), and that a step takes its move off the schedule (log entry 1). -/
def Obligations.StepsHappenOnlyWhereEnabled : Prop :=
  ∀ (s t : State) (mv : Move) (rest : List Move),
    s.schedule = mv :: rest → step s = .next t →
    t.schedule = rest ∧ t.params = s.params ∧
    match mv with
    | .host => s.hostProgram ≠ []
    | .bindResp _ => s.session = .starting ∧ s.net.request ≠ none
    | .netArrive _ => s.net.binding ≠ none
    | .netLose k => k < s.net.queue.length
    | .check => s.loop = .check
    | .rxDatagram => s.loop = .wait ∧ s.net.queue ≠ []
    | .rxTimeout => s.loop = .wait
    | .process => s.loop = .process
    | .sinkAck => s.loop = .dispatch
    | .convFatal => s.loop = .dispatch
    | .downRead w k => ∀ r, s.offer = some r → k < (r.place w).2
    | .complete => s.session = .stopping ∧ s.loop = .idle
    | .reset => True

/-! ## DECODE and the packet forms -/

/-- R155: with L ≤ 12 DECODE is TOO_SHORT whatever PKTBUF holds, so no byte is read; the Process step drops the datagram and runs no
form. -/
def Obligations.ShortDatagramIsTooShort : Prop :=
  (∀ (m : Memory) (len draw : Nat), len ≤ 12 → decodePacket m len draw = .error (.raise .tooShort)) ∧
  ∀ (s : State) (rest : List Move),
    s.schedule = .process :: rest → s.loop = .process → s.bufLen ≤ 12 →
    ∃ t, step s = .next t ∧ droppedWith .tooShort { s with schedule := rest } t

/-- The Process step, which runs the packet form of byte 0, is R284 with the one function DECODE of R151, in every state; outside Process
the model answers a fault, there being no such step (log entry 2). -/
def Obligations.ProcessStepIsDecode : Prop :=
  ∀ (s : State) (rest : List Move), s.schedule = .process :: rest →
    (s.loop = .process →
      step s = processResult (decodePacket s.pktBuf s.bufLen s.draws) { s with schedule := rest }) ∧
    (s.loop ≠ .process → step s = .fault .stepNotEnabled)

/-- R152: DEC.V2. BUFFER_TOO_SHORT exactly when the CSRC list runs past L; else the packet, with its fields, counted and
offered. -/
def Obligations.DecV2FillsThePacket : Prop :=
  ∀ (p : Bool) (cc : BitVec 4) (s : State),
    s.loop = .process → 12 < s.bufLen → s.bufferFilled →
    (s.bufLen < 12 + 4 * cc.toNat →
      ∃ t, exec (.decV2 p cc) s = .next t ∧ droppedWith .bufferTooShort s t) ∧
    (12 + 4 * cc.toNat ≤ s.bufLen →
      ∃ t, exec (.decV2 p cc) s = .next t ∧ acceptedWith s t ∧ t.pkt.headerFrom s.pktBuf s.bufLen ∧
        t.pkt.version = 2 ∧ t.pkt.padding = p ∧ t.pkt.extension = false ∧ t.pkt.csrcCount = cc ∧
        t.pkt.extensionHeaderId = 0 ∧ t.pkt.extensionHeaderLength = 0 ∧
        t.pkt.extOffset = 12 + 4 * cc.toNat ∧ t.pkt.payloadOffset = 12 + 4 * cc.toNat ∧
        t.pkt.payloadLength = s.bufLen - (12 + 4 * cc.toNat))

/-- R153: DEC.V2X. BUFFER_TOO_SHORT when the CSRC list, the preamble or the body runs past L; else the packet, whose extension
length counts bytes. -/
def Obligations.DecV2XFillsThePacket : Prop :=
  ∀ (p : Bool) (cc : BitVec 4) (s : State),
    s.loop = .process → 12 < s.bufLen → s.bufferFilled →
    (s.bufLen < 16 + 4 * cc.toNat →
      ∃ t, exec (.decV2X p cc) s = .next t ∧ droppedWith .bufferTooShort s t) ∧
    (16 + 4 * cc.toNat ≤ s.bufLen →
      ∃ elen < 65536, memRead s.pktBuf s.bufLen (14 + 4 * cc.toNat) 2 = .ok elen ∧
        (s.bufLen < 16 + 4 * cc.toNat + elen →
          ∃ t, exec (.decV2X p cc) s = .next t ∧ droppedWith .bufferTooShort s t) ∧
        (16 + 4 * cc.toNat + elen ≤ s.bufLen →
          ∃ t, exec (.decV2X p cc) s = .next t ∧ acceptedWith s t ∧ t.pkt.headerFrom s.pktBuf s.bufLen ∧
            t.pkt.version = 2 ∧ t.pkt.padding = p ∧ t.pkt.extension = true ∧ t.pkt.csrcCount = cc ∧
            memRead s.pktBuf s.bufLen (12 + 4 * cc.toNat) 2 = .ok t.pkt.extensionHeaderId.toNat ∧
            t.pkt.extensionHeaderLength.toNat = elen ∧ t.pkt.extOffset = 16 + 4 * cc.toNat ∧
            t.pkt.payloadOffset = 16 + 4 * cc.toNat + elen ∧
            t.pkt.payloadLength = s.bufLen - (16 + 4 * cc.toNat + elen)))

/-- R154: DEC.V0, DEC.V1 and DEC.V3 drop the datagram with UNSUPPORTED_VERSION whatever else byte 0 and PKTBUF hold. -/
def Obligations.OtherVersionsAreDropped : Prop :=
  ∀ (rest : BitVec 6) (i : Instr) (s : State),
    i = .decV0 rest ∨ i = .decV1 rest ∨ i = .decV3 rest → s.loop = .process → 12 < s.bufLen →
    ∃ t, exec i s = .next t ∧ droppedWith .unsupportedVersion s t

/-- The frame of the five packet forms: only the drop record, or only the accept record, PKT, CUR and LOOP change, and every byte of PKTBUF
stays (R86, R284, R90). Outside Process no form has a step (log entry 2), and with L ≤ 12 each is TOO_SHORT (R155). -/
def Obligations.PacketFormsFrame : Prop :=
  ∀ (i : Instr) (s : State), isForm i = true →
    (∀ t, exec i s = .next t →
      ((∃ c, droppedWith c s t) ∨ acceptedWith s t) ∧ (∀ a, t.pktBuf.read a = s.pktBuf.read a)) ∧
    (s.loop ≠ .process → exec i s = .fault .stepNotEnabled) ∧
    (s.loop = .process → s.bufLen ≤ 12 → ∃ t, exec i s = .next t ∧ droppedWith .tooShort s t)

/-- R157: with L > 12 and V = 2, DECODE is Ok exactly when the parts the header declares fit in L, and BUFFER_TOO_SHORT otherwise; with
X = 1 and no room for the preamble ELEN does not matter. -/
def Obligations.DecodeSucceedsWhenThePartsFit : Prop :=
  ∀ (m : Memory) (len draw : Nat) (b : Byte),
    12 < len → (∀ a < len, (m.read a).isSome) → m.read 0 = some b → b.extractLsb' 6 2 = 2#2 →
    let cc := (b.extractLsb' 0 4).toNat
    (b.getLsbD 4 = false →
      (12 + 4 * cc ≤ len → ∃ p, decodePacket m len draw = .ok p) ∧
      (len < 12 + 4 * cc → decodePacket m len draw = .error (.raise .bufferTooShort))) ∧
    (b.getLsbD 4 = true →
      (len < 16 + 4 * cc → decodePacket m len draw = .error (.raise .bufferTooShort)) ∧
      (16 + 4 * cc ≤ len → ∃ elen, memRead m len (14 + 4 * cc) 2 = .ok elen ∧
        (12 + 4 * cc + (4 + elen) ≤ len → ∃ p, decodePacket m len draw = .ok p) ∧
        (len < 12 + 4 * cc + (4 + elen) → decodePacket m len draw = .error (.raise .bufferTooShort))))

/-- R156: no datagram raises INVALID_CSRC_COUNT. -/
def Obligations.InvalidCsrcCountIsNeverRaised : Prop :=
  ∀ (m : Memory) (len draw : Nat), decodePacket m len draw ≠ .error (.raise .invalidCsrcCount)

/-- R158: on a buffer that holds its datagram, every MemRead of DECODE is defined. -/
def Obligations.DecodeNeverReadsOutOfBounds : Prop :=
  ∀ (m : Memory) (len draw a : Nat),
    (∀ x < len, (m.read x).isSome) → decodePacket m len draw ≠ .error (.noByte a)

/-- R164: two buffers that agree below L decode alike whatever is drawn for either, with the same error, or the same packet but for its
CSRC slots at csrcCount and above, which hold any value (R150, R53). -/
def Obligations.DecodeDependsOnTheDatagramAlone : Prop :=
  ∀ (m m' : Memory) (len draw draw' : Nat),
    (∀ a < len, m.read a = m'.read a) → sameDecode (decodePacket m len draw) (decodePacket m' len draw')

/-- R163: the parts of a decoded packet tile its datagram, and its ByteCount is L. -/
def Obligations.DecodedPacketHasTheDatagramsSize : Prop :=
  ∀ (m : Memory) (len draw : Nat) (p : Packet), decodePacket m len draw = .ok p →
    12 + 4 * p.csrcCount.toNat + (if p.extension then 4 + p.extensionHeaderLength.toNat else 0) + p.payloadLength = len ∧
    ∀ q, abstractPacket m p = some q → byteCount q = len

/-- A 16-bit and a 32-bit MemRead put the byte at the lower index higher, and a MemRead that passes L is refused (R17, R80, R82). Each width
asks only for the bytes it reads. -/
def Obligations.MemReadIsBigEndianAndBounded : Prop :=
  ∀ (m : Memory) (len a : Nat),
    (∀ b0, m.read a = some b0 → a + 1 ≤ len → memRead m len a 1 = .ok b0.toNat) ∧
    (∀ b0 b1, m.read a = some b0 → m.read (a + 1) = some b1 → a + 2 ≤ len →
      memRead m len a 2 = .ok (b0.toNat * 2 ^ 8 + b1.toNat)) ∧
    (∀ b0 b1 b2 b3, m.read a = some b0 → m.read (a + 1) = some b1 → m.read (a + 2) = some b2 → m.read (a + 3) = some b3 →
      a + 4 ≤ len →
      memRead m len a 4 = .ok (b0.toNat * 2 ^ 24 + b1.toNat * 2 ^ 16 + b2.toNat * 2 ^ 8 + b3.toNat)) ∧
    ∀ n, 0 < n → len < a + n → ∃ x, memRead m len a n = .error (.noByte x)

/-! ## The reference functions -/

/-- R204: Encode of a packet with a payload that is there succeeds at every sufficient capacity, with ByteCount bytes. Encode's errors
come in the order of R203, and on sequences that disagree with their counts it has no meaning (R202).
From R200 to R204; the statement rests on the model's choice that payloadLength has no bound (log entry 27). -/
def Obligations.EncodeHasByteCountBytes : Prop :=
  ∀ (q : AbstractPacket) (cap : Nat),
    (q.encodable → byteCount q ≤ cap → (q.payload ≠ none ∨ q.payloadLength = 0) →
      ∃ out, encodePacket q cap = .ok out ∧ out.length = byteCount q) ∧
    (q.encodable → 0 < q.payloadLength → q.payload = none → encodePacket q cap = .err .nullPayload) ∧
    (q.encodable → (q.payload ≠ none ∨ q.payloadLength = 0) → cap < byteCount q →
      encodePacket q cap = .err .bufferTooSmall) ∧
    (¬ q.encodable → encodePacket q cap = .undefined)

/-- R205: DECODE of the encoding of a valid packet of more than 12 bytes gives the packet back. It rests on the model's
choice that payloadLength has no bound (log entry 27). -/
def Obligations.DecodeOfEncodedPacketIsThePacket : Prop :=
  ∀ (q : AbstractPacket) (cap draw : Nat), q.valid → 12 < byteCount q → byteCount q ≤ cap →
    ∃ d p, encodePacket q cap = .ok d ∧ decodePacket (memoryOf d) d.length draw = .ok p ∧
      abstractPacket (memoryOf d) p = some q

/-- R206: Encode of a decoded packet gives its datagram back. -/
def Obligations.EncodeOfDecodedPacketIsTheDatagram : Prop :=
  ∀ (d : List Byte) (draw : Nat) (p : Packet), decodePacket (memoryOf d) d.length draw = .ok p →
    ∃ q, abstractPacket (memoryOf d) p = some q ∧ encodePacket q d.length = .ok d

/-! ## Host commands -/

/-- R233: NOP and the reserved OPCODEs change no state. -/
def Obligations.NopAndReservedCodesDoNothing : Prop :=
  ∀ (op : BitVec 4) (ign : BitVec 28) (s : State),
    exec (.cmdNop ign) s = .next s ∧ exec (.cmdRsvdLow op ign) s = .next s ∧ exec (.cmdRsvdHigh op ign) s = .next s

/-- R234, R242, R329: in Stopped, START and RECONFIGURE latch CFG_*, check the group, then FORMAT, then RATE and LAYOUT, and on
success make the configuration active, clear SESSION_ERR and ask Net for the bind. -/
def Obligations.StartInStopped : Prop :=
  ∀ (i : Instr) (ign : BitVec 28) (s : State),
    i = .cmdStart ign ∨ i = .cmdReconfigure ign → s.session = .stopped →
    (s.cfg.group = 0 → exec i s = .next { s with pend := s.cfg, sessionErr := .configInvalid }) ∧
    (s.cfg.group ≠ 0 → s.cfg.stream.format = 2 ∨ s.cfg.stream.format = 3 →
      exec i s = .next { s with pend := s.cfg, sessionErr := .unsupportedSampleFormat }) ∧
    (s.cfg.group ≠ 0 → s.cfg.stream.format = 0 ∨ s.cfg.stream.format = 1 →
      s.cfg.stream.rate = 3 ∨ s.cfg.stream.layout = 3 →
      exec i s = .next { s with pend := s.cfg, sessionErr := .configInvalid }) ∧
    (s.cfg.group ≠ 0 → s.cfg.stream.format = 0 ∨ s.cfg.stream.format = 1 →
      s.cfg.stream.rate ≠ 3 → s.cfg.stream.layout ≠ 3 →
      exec i s = .next { s with
        pend := s.cfg
        act := s.cfg
        sessionErr := .none
        session := .starting
        net := { s.net with request := some ⟨s.cfg.group, s.cfg.iface, 5004⟩ } })

/-- The lifecycle errors are no-ops: START in Running (R238), STOP in Stopped (R240), and every command that arrives while BUSY is 1, which is
in Starting and Stopping (R232, R46). -/
def Obligations.LifecycleErrorsHaveNoEffect : Prop :=
  ∀ (i : Instr) (ign : BitVec 28) (s : State),
    (i = .cmdStart ign → s.session = .running → exec i s = .next s) ∧
    (i = .cmdStop ign → s.session = .stopped → exec i s = .next s) ∧
    (isForm i = false → s.busy = true → exec i s = .next s) ∧
    (s.busy = true ↔ s.session = .starting ∨ s.session = .stopping)

/-- R239, R243: in Running, STOP clears RUN and RESTART and moves to Stopping; RECONFIGURE latches CFG_*, clears RUN, asks for a restart
and moves to Stopping. -/
def Obligations.StopAndReconfigureInRunning : Prop :=
  ∀ (ign : BitVec 28) (s : State), s.session = .running →
    exec (.cmdStop ign) s = .next { s with run := false, restart := false, session := .stopping } ∧
    exec (.cmdReconfigure ign) s =
      .next { s with pend := s.cfg, restart := true, run := false, session := .stopping }

/-- The frame of the commands, in every state: no command touches CFG_*, the counters, LAST_DECODE_ERR, LOOP, the outputs or the datapath, none
sets RUN, and only START and RECONFIGURE write PEND_* and ACT_* (R89, R90, R232 to R243). -/
def Obligations.CommandsFrame : Prop :=
  ∀ (i : Instr) (s : State), isForm i = false →
    ∃ t, exec i s = .next t ∧
      t = { s with
        pend := t.pend
        act := t.act
        sessionErr := t.sessionErr
        session := t.session
        run := t.run
        restart := t.restart
        net := { s.net with request := t.net.request } } ∧
      (t.run = true → s.run = true) ∧ (∀ a, t.pktBuf.read a = s.pktBuf.read a) ∧
      ((∀ ign, i ≠ .cmdStart ign ∧ i ≠ .cmdReconfigure ign) →
        t.pend = s.pend ∧ t.act = s.act ∧ t.sessionErr = s.sessionErr ∧ t.net = s.net)

/-! ## The session's other steps -/

/-- R236, R237: BIND_RESP in Starting. OK begins the loop and the session runs; another verdict is recorded in SESSION_ERR and the session is
Stopped. Two clauses are the model's: Net then holds the binding it was asked for (log entry 19), and an answer needs and ends the
outstanding request (log entry 14, from R245). -/
def Obligations.BindAnswerEndsStarting : Prop :=
  ∀ (s : State) (rest : List Move) (b : Binding) (v : BindVerdict),
    s.schedule = .bindResp v :: rest → s.session = .starting → s.net.request = some b →
    (v = .ok → step s = .next { s with
      schedule := rest
      sockBound := true
      perfHint := true
      run := true
      loop := .check
      session := .running
      net := { s.net with request := none, binding := some b } }) ∧
    (∀ c, (v = .bindFailed ∧ c = .bindFailed) ∨ (v = .socketAllocFailed ∧ c = .socketAllocFailed) →
      step s = .next { s with
        schedule := rest
        sessionErr := c
        session := .stopped
        net := { s.net with request := none } })

/-- R241: stop completion releases the hint and the binding, empties Net's queue and reaches Stopped; with RESTART = 1 it then performs
StartSequence (R235) on PEND_* within the same step. -/
def Obligations.StopCompletion : Prop :=
  ∀ (s : State) (rest : List Move),
    s.schedule = .complete :: rest → s.session = .stopping → s.loop = .idle →
    let u := { s with
      schedule := rest
      perfHint := false
      sockBound := false
      session := .stopped
      restart := false
      net := { s.net with binding := none, queue := [] } }
    (s.restart = false → step s = .next u) ∧
    (s.restart = true → s.pend.group = 0 → step s = .next { u with sessionErr := .configInvalid }) ∧
    (s.restart = true → s.pend.group ≠ 0 → s.pend.stream.format = 2 ∨ s.pend.stream.format = 3 →
      step s = .next { u with sessionErr := .unsupportedSampleFormat }) ∧
    (s.restart = true → s.pend.group ≠ 0 → s.pend.stream.format = 0 ∨ s.pend.stream.format = 1 →
      s.pend.stream.rate = 3 ∨ s.pend.stream.layout = 3 → step s = .next { u with sessionErr := .configInvalid }) ∧
    (s.restart = true → s.pend.group ≠ 0 → s.pend.stream.format = 0 ∨ s.pend.stream.format = 1 →
      s.pend.stream.rate ≠ 3 → s.pend.stream.layout ≠ 3 →
      step s = .next { u with
        act := s.pend
        sessionErr := .none
        session := .starting
        net := { u.net with request := some ⟨s.pend.group, s.pend.iface, 5004⟩ } })

/-- R281, R283: Check goes to Wait while RUN is 1 and exits the loop when it is 0; RX_TIMEOUT in Wait returns to Check, whatever Net's queue
holds. Both write LOOP alone. -/
def Obligations.CheckAndTimeoutMoveTheLoop : Prop :=
  ∀ (s : State) (rest : List Move),
    (s.schedule = .check :: rest → s.loop = .check →
      (s.run = true → step s = .next { s with schedule := rest, loop := .wait }) ∧
      (s.run = false → step s = .next { s with schedule := rest, loop := .idle })) ∧
    (s.schedule = .rxTimeout :: rest → s.loop = .wait → step s = .next { s with schedule := rest, loop := .check })

/-- R282: ingress takes the queue's head. Over-long, it is dropped with DATAGRAM_TOO_LONG; else PKTBUF holds it from index 0, keeping its
old bytes from L on, and BUFLEN is L. -/
def Obligations.IngressTakesTheHeadDatagram : Prop :=
  ∀ (s : State) (rest : List Move) (d : List Byte) (q : List (List Byte)),
    s.schedule = .rxDatagram :: rest → s.loop = .wait → s.net.queue = d :: q →
    (s.params.maxDatagram < d.length →
      step s = .next { s with
        schedule := rest
        net := { s.net with queue := q }
        lastDecodeErr := .datagramTooLong
        rxDropCount := s.rxDropCount + 1
        loop := .check }) ∧
    (d.length ≤ s.params.maxDatagram →
      ∃ t, step s = .next t ∧
        t = { s with
          schedule := rest
          net := { s.net with queue := q }
          pktBuf := t.pktBuf
          bufLen := d.length
          loop := .process } ∧
        (∀ a < d.length, t.pktBuf.read a = d[a]?) ∧ (∀ a, d.length ≤ a → t.pktBuf.read a = s.pktBuf.read a))

/-- R286: SINK_ACK ends the dispatch. -/
def Obligations.AckEndsTheDispatch : Prop :=
  ∀ (s : State) (rest : List Move), s.schedule = .sinkAck :: rest → s.loop = .dispatch →
    step s = .next { s with schedule := rest, pktValid := false, loop := .check, offer := none }

/-- R287: CONV_FATAL ends the dispatch and the session, and cancels a restart. -/
def Obligations.FatalReportStopsTheSession : Prop :=
  ∀ (s : State) (rest : List Move), s.schedule = .convFatal :: rest → s.loop = .dispatch →
    let u := { s with
      schedule := rest
      pktValid := false
      sessionErr := .unsupportedSampleFormat
      run := false
      restart := false
      loop := .check
      offer := none }
    (s.session = .running → step s = .next { u with session := .stopping }) ∧
    (s.session ≠ .running → step s = .next u)

/-- R330: a fatal report and a STOP or RECONFIGURE, in either order, end in Stopped with UNSUPPORTED_SAMPLE_FORMAT and no restart. The two end
states are equal after a STOP, and equal but for PEND_* after a RECONFIGURE, which latches CFG_* only where it comes first (R243, R232). -/
def Obligations.FatalAndStopCommute : Prop :=
  ∀ (s : State) (w : Word) (rest : List Move) (more : List HostAccess),
    s.params.wf → s.session = .running → s.loop = .dispatch →
    s.hostProgram = ⟨.write w, s.params.regBase, 4⟩ :: more → w &&& 0xF = 2 ∨ w &&& 0xF = 3 →
    ∃ x y,
      Sys2Proof.core.run 4 { s with schedule := .convFatal :: .host :: .check :: .complete :: rest } = .next x ∧
      Sys2Proof.core.run 4 { s with schedule := .host :: .convFatal :: .check :: .complete :: rest } = .next y ∧
      x = { y with pend := State.pend x } ∧ (w &&& 0xF = 2 → x = y) ∧
      (∀ z, z = x ∨ z = y →
        State.session z = .stopped ∧ z.sessionErr = .unsupportedSampleFormat ∧ z.restart = false ∧ z.run = false ∧
          z.loop = .idle)

/-! ## Reset -/

/-- R360, R361: the reset step, in any state, and what each register reads as after it and in State.reset. PKTBUF, PKT and CUR are
unspecified after it and not mentioned. -/
def Obligations.ResetStep : Prop :=
  let registers : List Nat := [0x00, 0x04, 0x08, 0x0C, 0x10, 0x14, 0x18, 0x1C, 0x20, 0x24]
  registers.map State.reset.readOffset = [0, 0, 0, 0, 0x15, 0, 0, 0x15, 0, 0] ∧
  ∀ (s : State) (rest : List Move), s.schedule = .reset :: rest →
    ∃ t, step s = .next t ∧ t.schedule = rest ∧ registers.map t.readOffset = [0, 0, 0, 0, 0x15, 0, 0, 0x15, 0, 0] ∧
      t.session = .stopped ∧ t.run = false ∧ t.restart = false ∧ t.loop = .idle ∧ t.perfHint = false ∧
      t.sockBound = false ∧ t.sessionErr = .none ∧ t.lastDecodeErr = .none ∧
      (∀ c, c = t.cfg ∨ c = t.act ∨ c = t.pend → c.group = 0 ∧ c.iface = 0 ∧ c.stream.toWord = 0x15) ∧
      t.rxOkCount = 0 ∧ t.rxDropCount = 0 ∧ t.bufLen = 0 ∧ t.pktValid = false ∧
      t.net.binding = none ∧ t.net.queue = [] ∧ t.net.request = none ∧ t.offer = none

/-! ## Host register accesses -/

/-- R33: the fields of STATUS, with BUSY 1 exactly in Starting and Stopping (R46) and the reserved bits 0; and the value of each error code
the two error fields hold (R121). -/
def Obligations.StatusFields : Prop :=
  ∀ s : State,
    s.readOffset 0x04 = s.status ∧
    s.status.extractLsb' 0 2 =
      (match s.session with | .stopped => 0#2 | .starting => 1#2 | .running => 2#2 | .stopping => 3#2) ∧
    (s.status.getLsbD 2 = true ↔ s.session = .starting ∨ s.session = .stopping) ∧
    s.status.getLsbD 3 = s.perfHint ∧ s.status.getLsbD 4 = s.sockBound ∧ s.status.getLsbD 5 = s.run ∧
    s.status.extractLsb' 6 2 = 0#2 ∧ s.status.extractLsb' 8 8 = s.sessionErr.code ∧
    s.status.extractLsb' 16 8 = s.lastDecodeErr.code ∧ s.status.extractLsb' 24 8 = 0#8 ∧
    ErrCode.code .none = 0x00 ∧ ErrCode.code .tooShort = 0x01 ∧ ErrCode.code .unsupportedVersion = 0x02 ∧
    ErrCode.code .invalidCsrcCount = 0x03 ∧ ErrCode.code .bufferTooShort = 0x04 ∧ ErrCode.code .datagramTooLong = 0x05 ∧
    ErrCode.code .configInvalid = 0x10 ∧ ErrCode.code .unsupportedSampleFormat = 0x11 ∧ ErrCode.code .bindFailed = 0x12 ∧
    ErrCode.code .socketAllocFailed = 0x13 ∧ ErrCode.code .nullPayload = 0x20 ∧ ErrCode.code .bufferTooSmall = 0x21

/-- A host read returns the register at the offset, 0 where none is mapped and for CMD, and has no other effect (R31, R41, R89). -/
def Obligations.HostReadsHaveNoSideEffect : Prop :=
  ∀ (s : State) (off : Nat) (rest : List Move) (more : List HostAccess),
    s.params.wf → off % 4 = 0 → off + 4 ≤ s.params.windowBytes →
    s.schedule = .host :: rest → s.hostProgram = ⟨.read, s.params.regBase + off, 4⟩ :: more →
    ∃ v, step s = .next { s with schedule := rest, hostProgram := more, hostRead := some v } ∧
      (off = 0x00 → v = 0) ∧ (off = 0x04 → v = s.status) ∧ (off = 0x08 → v = s.cfg.group) ∧
      (off = 0x0C → v = s.cfg.iface) ∧ (off = 0x10 → v = s.cfg.stream.toWord) ∧ (off = 0x14 → v = s.act.group) ∧
      (off = 0x18 → v = s.act.iface) ∧ (off = 0x1C → v = s.act.stream.toWord) ∧ (off = 0x20 → v = s.rxOkCount) ∧
      (off = 0x24 → v = s.rxDropCount) ∧ (0x28 ≤ off → v = 0)

/-- A host write to CFG_GROUP, CFG_IFACE or CFG_STREAM changes that register alone, CFG_STREAM keeping bits [5:0] and reading back with the
reserved bits 0; a write to a read-only or unmapped offset changes nothing (R31, R34 to R41, R89). -/
def Obligations.HostWritesToConfigRegisters : Prop :=
  ∀ (s : State) (off : Nat) (w : Word) (rest : List Move) (more : List HostAccess),
    s.params.wf → off % 4 = 0 → off + 4 ≤ s.params.windowBytes → off ≠ 0 →
    s.schedule = .host :: rest → s.hostProgram = ⟨.write w, s.params.regBase + off, 4⟩ :: more →
    let u := { s with schedule := rest, hostProgram := more }
    (off = 0x08 → step s = .next { u with cfg := { s.cfg with group := w } }) ∧
    (off = 0x0C → step s = .next { u with cfg := { s.cfg with iface := w } }) ∧
    (off = 0x10 → ∃ st, step s = .next { u with cfg := { s.cfg with stream := st } } ∧
      st.rate = w.extractLsb' 0 2 ∧ st.layout = w.extractLsb' 2 2 ∧ st.format = w.extractLsb' 4 2 ∧
      st.toWord = w &&& 0x3F) ∧
    (off ≠ 0x08 → off ≠ 0x0C → off ≠ 0x10 → step s = .next u)

/-- R87: a 32-bit access aligned to 4 bytes inside the window always completes; one of another width or alignment has no step. -/
def Obligations.OnlyAlignedWordAccessesHaveAStep : Prop :=
  ∀ (s : State) (a : HostAccess) (rest : List Move) (more : List HostAccess),
    s.params.wf → s.schedule = .host :: rest → s.hostProgram = a :: more →
    (a.bytes = 4 → a.addr % 4 = 0 → s.params.regBase ≤ a.addr → a.addr + 4 ≤ s.params.regBase + s.params.windowBytes →
      ∃ t, step s = .next t ∧ t.hostProgram = more) ∧
    (a.bytes ≠ 4 ∨ a.addr % 4 ≠ 0 → step s = .fault .accessNotAdmitted)

/-! ## The whole machine -/

/-- The invariant holds at reset, with the parameters State.reset carries (the model's choice, log entry 3). -/
def Obligations.ResetSatisfiesTheInvariant : Prop := State.reset.Inv

/-- Every step, of every agent and every instruction, keeps the invariant: the table of R231, the legality of ACT_*, PKTBUF's form and
bounds, PKT_VALID and the offer, Net's binding, request and queue, and the error registers. -/
def Obligations.EveryStepKeepsTheInvariant : Prop :=
  ∀ s t : State, s.Inv → step s = .next t → t.Inv

/-- R82: in a state that meets the invariant no step reads PKTBUF at or above BUFLEN, nor a byte nothing has written. -/
def Obligations.NoStepReadsOutsideTheDatagram : Prop :=
  ∀ s : State, s.Inv → Safe (step s) = true

/-- R230: STATE moves only along its edges, by the steps that own them: START or RECONFIGURE out of Stopped, Net's verdict out of Starting,
STOP, RECONFIGURE or a fatal report out of Running, completion out of Stopping, whose restart passes through Stopped inside one
step (R241). The reset step (R360) is left aside. -/
def Obligations.SessionMovesAlongItsEdges : Prop :=
  ∀ (s t : State) (mv : Move) (rest : List Move),
    s.schedule = mv :: rest → mv ≠ .reset → step s = .next t → t.session ≠ s.session →
    (s.session = .stopped ∧ t.session = .starting ∧ mv = .host ∧ (s.hostWritesCommand 1 ∨ s.hostWritesCommand 3)) ∨
    (s.session = .starting ∧ t.session = .running ∧ mv = .bindResp .ok) ∨
    (s.session = .starting ∧ t.session = .stopped ∧ (mv = .bindResp .bindFailed ∨ mv = .bindResp .socketAllocFailed)) ∨
    (s.session = .running ∧ t.session = .stopping ∧
      ((mv = .host ∧ (s.hostWritesCommand 2 ∨ s.hostWritesCommand 3)) ∨ mv = .convFatal)) ∨
    (s.session = .stopping ∧ t.session = .stopped ∧ mv = .complete) ∨
    (s.session = .stopping ∧ t.session = .starting ∧ mv = .complete ∧ s.restart = true)

/-- R280: LOOP moves only along its edges, by the steps that own them. The reset step (R360) is left aside. -/
def Obligations.LoopMovesAlongItsEdges : Prop :=
  ∀ (s t : State) (mv : Move) (rest : List Move),
    s.Inv → s.schedule = mv :: rest → mv ≠ .reset → step s = .next t → t.loop ≠ s.loop →
    (s.loop = .idle ∧ t.loop = .check ∧ mv = .bindResp .ok) ∨
    (s.loop = .check ∧ t.loop = .wait ∧ mv = .check ∧ s.run = true) ∨
    (s.loop = .check ∧ t.loop = .idle ∧ mv = .check ∧ s.run = false) ∨
    (s.loop = .wait ∧ t.loop = .process ∧ mv = .rxDatagram ∧ t.bufLen ≤ s.params.maxDatagram) ∨
    (s.loop = .wait ∧ t.loop = .check ∧
      (mv = .rxTimeout ∨ (mv = .rxDatagram ∧ ∃ d ∈ s.net.queue.head?, s.params.maxDatagram < d.length))) ∨
    (s.loop = .process ∧ t.loop = .dispatch ∧ mv = .process ∧ t.pktValid = true) ∨
    (s.loop = .process ∧ t.loop = .check ∧ mv = .process ∧ t.pktValid = false) ∨
    (s.loop = .dispatch ∧ t.loop = .check ∧ (mv = .sinkAck ∨ mv = .convFatal))

/-- The Host, Net's answers and arrivals, the Timer, Check and block control never write PKTBUF, BUFLEN, CUR, PKT or PKT_VALID, and the Host
never writes LOOP; the reset step (R360) is left aside (R90, R86). -/
def Obligations.DatapathHasOneOwner : Prop :=
  ∀ (s t : State) (mv : Move) (rest : List Move),
    s.schedule = mv :: rest → step s = .next t → mv ≠ .reset →
    (mv ≠ .rxDatagram → t.pktBuf = s.pktBuf ∧ t.bufLen = s.bufLen) ∧
    (mv ≠ .process → t.pkt = s.pkt ∧ t.cur = s.cur) ∧
    (mv ≠ .process → mv ≠ .sinkAck → mv ≠ .convFatal → t.pktValid = s.pktValid) ∧
    (mv = .host → t.loop = s.loop)

/-- R39, R40: RX_OK_COUNT counts the decodes that end in Ok and RX_DROP_COUNT the datagrams dropped, modulo 2^32; no other step but
reset writes them, and no command clears them. -/
def Obligations.CountersCountDecodesAndDrops : Prop :=
  State.reset.rxOkCount = 0 ∧ State.reset.rxDropCount = 0 ∧
  ∀ (s t : State) (mv : Move) (rest : List Move),
    s.schedule = mv :: rest → step s = .next t → mv ≠ .reset →
    (mv = .process → (∃ p, decodePacket s.pktBuf s.bufLen s.draws = .ok p) → t.rxOkCount = s.rxOkCount + 1) ∧
    (¬ (mv = .process ∧ ∃ p, decodePacket s.pktBuf s.bufLen s.draws = .ok p) → t.rxOkCount = s.rxOkCount) ∧
    (mv = .process → (∃ c, decodePacket s.pktBuf s.bufLen s.draws = .error (.raise c)) →
      t.rxDropCount = s.rxDropCount + 1) ∧
    (mv = .rxDatagram → (∃ d ∈ s.net.queue.head?, s.params.maxDatagram < d.length) →
      t.rxDropCount = s.rxDropCount + 1) ∧
    (¬ (mv = .process ∧ ∃ c, decodePacket s.pktBuf s.bufLen s.draws = .error (.raise c)) →
      ¬ (mv = .rxDatagram ∧ ∃ d ∈ s.net.queue.head?, s.params.maxDatagram < d.length) →
      t.rxDropCount = s.rxDropCount)

/-- A running session's configuration is immutable: ACT_* changes only in a step that enters Starting, where it becomes PEND_*; CFG_*
changes only by the Host, and PEND_* only to CFG_*, by the Host; the reset step (R360) is left
aside (R38, R44, R89, R371). -/
def Obligations.ConfigurationIsLatched : Prop :=
  ∀ (s t : State) (mv : Move) (rest : List Move),
    s.schedule = mv :: rest → step s = .next t → mv ≠ .reset →
    (t.act ≠ s.act → t.session = .starting ∧ (s.session = .stopped ∨ s.session = .stopping) ∧ t.act = t.pend) ∧
    (t.cfg ≠ s.cfg → mv = .host) ∧ (t.pend ≠ s.pend → mv = .host ∧ t.pend = s.cfg)

/-- SESSION_ERR keeps its value through every step but a StartSequence (a START or RECONFIGURE in Stopped, or the completion of a stop with
a restart), a failed bind, Down's fatal report and reset (R42, R322). -/
def Obligations.SessionErrorIsSticky : Prop :=
  ∀ (s t : State) (mv : Move) (rest : List Move),
    s.schedule = mv :: rest → step s = .next t → t.sessionErr ≠ s.sessionErr →
    (mv = .host ∧ s.session = .stopped ∧ (s.hostWritesCommand 1 ∨ s.hostWritesCommand 3)) ∨
      (mv = .complete ∧ s.restart = true) ∨ mv = .bindResp .bindFailed ∨ mv = .bindResp .socketAllocFailed ∨ mv = .convFatal ∨ mv = .reset

/-- R290: a step that drops a datagram, at ingress or in Process, returns to Check and leaves STATE, RUN and SESSION_ERR unchanged. -/
def Obligations.ProtocolErrorsNeverEndTheSession : Prop :=
  ∀ (s t : State) (mv : Move) (rest : List Move),
    s.schedule = mv :: rest → mv = .rxDatagram ∨ mv = .process → step s = .next t → t.rxDropCount ≠ s.rxDropCount →
    t.loop = .check ∧ t.session = s.session ∧ t.run = s.run ∧ t.sessionErr = s.sessionErr

/-- The offered record has all of PKT, its first csrcCount CSRC entries, the windows and ACT_STREAM (R130, R285). -/
def Obligations.OfferCarriesThePacket : Prop :=
  ∀ s : State, s.Inv → s.loop = .dispatch →
    ∃ r, s.offer = some r ∧ r.stream = s.act.stream ∧ r.version = s.pkt.version ∧ r.padding = s.pkt.padding ∧
      r.extension = s.pkt.extension ∧ r.csrcCount = s.pkt.csrcCount ∧ r.marker = s.pkt.marker ∧
      r.payloadType = s.pkt.payloadType ∧ r.sequenceNumber = s.pkt.sequenceNumber ∧ r.timestamp = s.pkt.timestamp ∧
      r.ssrc = s.pkt.ssrc ∧ r.csrc.length = s.pkt.csrcCount.toNat ∧
      (∀ (i : Nat) (h : i < 15), i < s.pkt.csrcCount.toNat → r.csrc[i]? = some s.pkt.csrc[i]) ∧
      r.extensionHeaderId = s.pkt.extensionHeaderId ∧ r.extensionHeaderLength = s.pkt.extensionHeaderLength ∧
      r.extOffset = s.pkt.extOffset ∧ r.payloadOffset = s.pkt.payloadOffset ∧ r.payloadLength = s.pkt.payloadLength

/-- While the Loop is in Dispatch the record offered to Down, PKT and the bytes under its windows do not change (R95). -/
def Obligations.DispatchedRecordIsStable : Prop :=
  ∀ s t : State, s.Inv → step s = .next t → s.loop = .dispatch → t.loop = .dispatch →
    t.offer = s.offer ∧ t.pkt = s.pkt ∧ t.bufLen = s.bufLen ∧ ∀ a, t.pktBuf.read a = s.pktBuf.read a

/-- Down reads every byte of the offered record's windows, and reads it from PKTBUF (R55, R82, R84). That a read past a window's end is no
step is the model's choice (log entry 15), and the fault it answers there too (log entry 2). -/
def Obligations.DownReadsTheWindows : Prop :=
  ∀ (s : State) (w : Window) (k : Nat) (rest : List Move) (r : DispatchRecord),
    s.Inv → s.schedule = .downRead w k :: rest → s.offer = some r →
    (k < (r.place w).2 → ∃ b, s.pktBuf.read ((r.place w).1 + k) = some b ∧
      step s = .next { s with schedule := rest, downRead := some b }) ∧
    ((r.place w).2 ≤ k → step s = .fault .stepNotEnabled)

/-- Net's queue is a lossy FIFO of the capacity NET_QUEUE_DEPTH: only an arrival adds, at the end and with room; ingress takes the head; what
else leaves leaves the rest in order (R57, R289, R291). That an arrival at a full queue leaves the queue as it is is the model's
deduction (log entry 13): R291 would let another datagram be lost, which the model splits into a loss and an arrival. -/
def Obligations.NetQueueIsALossyFifo : Prop :=
  ∀ (s t : State) (mv : Move) (rest : List Move),
    s.schedule = mv :: rest → step s = .next t →
    match mv with
    | .netArrive d =>
      t.net.queue = if s.net.queue.length < s.params.netQueueDepth then s.net.queue ++ [d] else s.net.queue
    | .rxDatagram => s.net.queue = s.net.queue.take 1 ++ t.net.queue ∧ s.net.queue ≠ []
    | .netLose k => t.net.queue = s.net.queue.take k ++ s.net.queue.drop (k + 1)
    | .complete => t.net.queue = []
    | .reset => t.net.queue = []
    | _ => t.net.queue = s.net.queue

/-- Without a session nothing happens but host accesses, Net's answer in Starting, reset, and Down's reads, by downRead, of windows
that hold no record any more (R245, R338, R362). That Down may still read then is the model's choice (log entry 15). -/
def Obligations.QuietWithoutASession : Prop :=
  ∀ (s t : State) (mv : Move) (rest : List Move),
    s.Inv → s.schedule = mv :: rest → step s = .next t → s.session = .stopped ∨ s.session = .starting →
    mv = .host ∨ (s.session = .starting ∧ ∃ v, mv = .bindResp v) ∨ (∃ w k, mv = .downRead w k) ∨ mv = .reset

/-- The drain after a stop (R294): in Stopping, along any run that neither completes the stop nor resets, at most one more datagram is
taken, and only from Wait, and at most one more Process is run. -/
def Obligations.AtMostOneDatagramAfterTheStop : Prop :=
  ∀ (s t : State) (moves rest : List Move),
    s.Inv → s.session = .stopping → s.schedule = moves ++ rest → .complete ∉ moves → .reset ∉ moves →
    Sys2Proof.core.run moves.length s = .next t →
    moves.count .rxDatagram ≤ (if s.loop = .wait then 1 else 0) ∧
    moves.count .process ≤ (if s.loop = .wait ∨ s.loop = .process then 1 else 0) ∧
    State.session t = .stopping

/-- A stop can always complete once the outside answers (R93, R94, R241): from Stopping in any phase, some moves of Loop, Timer, Down and
block control, at most four, end the session. -/
def Obligations.AStopCanComplete : Prop :=
  ∀ (s : State) (rest : List Move), s.Inv → s.session = .stopping →
    ∃ moves t, moves.length ≤ 4 ∧
      (∀ mv ∈ moves, mv = .check ∨ mv = .rxTimeout ∨ mv = .process ∨ mv = .sinkAck ∨ mv = .complete) ∧
      Sys2Proof.core.run moves.length { s with schedule := moves ++ rest } = .next t ∧
      State.session t ≠ .stopping ∧ t.loop = .idle ∧ t.perfHint = false ∧ t.sockBound = false ∧ t.schedule = rest

/-- R292, along an infinite run that is fair in Wait: a Loop in Wait leaves it by RX_DATAGRAM or RX_TIMEOUT, unless a reset comes first; and
a cleared RUN is eventually seen at Check: it stays 0 up to a Check step, by which the Loop exits. The second needs besides that Down answers
(R293) and that the Loop takes its own steps, which is the model's reading (log entry 28). -/
def Obligations.AClearedRunIsSeenAtCheck : Prop :=
  ∀ (states : Nat → State) (moves : Nat → Move) (accesses : Nat → List HostAccess) (n : Nat),
    IsRun states moves accesses → (states n).Inv → FairInWait states moves →
    ((states n).loop = .wait →
      ∃ m ≥ n, (∀ k, n ≤ k → k ≤ m → (states k).loop = .wait) ∧ (states (m + 1)).loop ≠ .wait ∧
        (moves m = .rxDatagram ∨ moves m = .rxTimeout ∨ moves m = .reset)) ∧
    (LoopProceeds states moves → DownAnswers states moves →
      (states n).run = false → (states n).loop ≠ .idle → (∀ m ≥ n, moves m ≠ .reset) →
      ∃ m ≥ n, (∀ k, n ≤ k → k ≤ m → (states k).run = false) ∧
        (states m).loop = .check ∧ moves m = .check ∧ (states (m + 1)).loop = .idle)
end

