-- ==== Sys2Proof/Laws/Decode.lean ====
section
/-! SUPPORT. The fields of a command word, put together and taken apart, and the opcode table's masks as conditions on the OPCODE. -/

namespace Sys2Proof

@[simp] theorem commandOpcode_commandWord (op : BitVec 4) (ign : BitVec 28) : commandOpcode (commandWord op ign) = op := by
  apply BitVec.eq_of_getLsbD_eq
  intro i hi
  simp only [commandOpcode, commandWord, BitVec.getLsbD_extractLsb', BitVec.getLsbD_append]
  simp [hi]

@[simp] theorem commandIgnored_commandWord (op : BitVec 4) (ign : BitVec 28) :
    commandIgnored (commandWord op ign) = ign := by
  apply BitVec.eq_of_getLsbD_eq
  intro i hi
  simp only [commandIgnored, commandWord, BitVec.getLsbD_extractLsb', BitVec.getLsbD_append]
  simp [hi]

/-- A command word is its ignored bits and its OPCODE (R125). -/
theorem commandWord_fields (w : Word) : commandWord (commandOpcode w) (commandIgnored w) = w := by
  apply BitVec.eq_of_getLsbD_eq
  intro i hi
  simp only [commandOpcode, commandIgnored, commandWord, BitVec.getLsbD_extractLsb', BitVec.getLsbD_append]
  by_cases h : i < 4
  · simp [h]
  · rw [if_neg h, show 4 + (i - 4) = i by omega, decide_eq_true (by omega : i - 4 < 28)]
    rfl

/-- Masking a command word with a constant of four bits tests its OPCODE alone (R126). -/
theorem command_mask (w : Word) (m p : BitVec 4) :
    w &&& m.setWidth 32 = p.setWidth 32 ↔ commandOpcode w &&& m = p := by
  constructor
  · intro h
    apply BitVec.eq_of_getLsbD_eq
    intro i hi
    have hb := congrArg (fun v : Word => v.getLsbD i) h
    simp only [BitVec.getLsbD_and, BitVec.getLsbD_setWidth, decide_eq_true (by omega : i < 32), Bool.true_and] at hb
    simp only [commandOpcode, BitVec.getLsbD_and, BitVec.getLsbD_extractLsb', decide_eq_true hi, Bool.true_and,
      Nat.zero_add, hb]
  · intro h
    apply BitVec.eq_of_getLsbD_eq
    intro i hi
    simp only [BitVec.getLsbD_and, BitVec.getLsbD_setWidth, decide_eq_true hi, Bool.true_and]
    by_cases h4 : i < 4
    · have hb := congrArg (fun v : BitVec 4 => v.getLsbD i) h
      simpa only [commandOpcode, BitVec.getLsbD_and, BitVec.getLsbD_extractLsb', decide_eq_true h4, Bool.true_and,
        Nat.zero_add] using hb
    · rw [BitVec.getLsbD_of_ge m i (by omega), BitVec.getLsbD_of_ge p i (by omega), Bool.and_false]

/-- An OPCODE is the number it spells. -/
theorem opcode_eq_ofNat {op : BitVec 4} {k : Nat} (h : op.toNat = k) : op = BitVec.ofNat 4 k := by
  subst h
  simp

end Sys2Proof
end

