-- ==== Sys2Proof/Laws/State.lean ====
section
/-! SUPPORT. What each named update of State leaves in each field: one lemma per field per update, so that no later proof unfolds a
record update. -/

namespace Sys2Proof.Machine

variable (s : State)

/-! ## dropDatagram -/

@[simp] theorem dropDatagram_params (c : ErrCode) : (dropDatagram c s).params = s.params := rfl
@[simp] theorem dropDatagram_cfg (c : ErrCode) : (dropDatagram c s).cfg = s.cfg := rfl
@[simp] theorem dropDatagram_act (c : ErrCode) : (dropDatagram c s).act = s.act := rfl
@[simp] theorem dropDatagram_pend (c : ErrCode) : (dropDatagram c s).pend = s.pend := rfl
@[simp] theorem dropDatagram_rxOkCount (c : ErrCode) : (dropDatagram c s).rxOkCount = s.rxOkCount := rfl
@[simp] theorem dropDatagram_rxDropCount (c : ErrCode) : (dropDatagram c s).rxDropCount = s.rxDropCount + 1 := rfl
@[simp] theorem dropDatagram_sessionErr (c : ErrCode) : (dropDatagram c s).sessionErr = s.sessionErr := rfl
@[simp] theorem dropDatagram_lastDecodeErr (c : ErrCode) : (dropDatagram c s).lastDecodeErr = c := rfl
@[simp] theorem dropDatagram_session (c : ErrCode) : (dropDatagram c s).session = s.session := rfl
@[simp] theorem dropDatagram_loop (c : ErrCode) : (dropDatagram c s).loop = .check := rfl
@[simp] theorem dropDatagram_run (c : ErrCode) : (dropDatagram c s).run = s.run := rfl
@[simp] theorem dropDatagram_restart (c : ErrCode) : (dropDatagram c s).restart = s.restart := rfl
@[simp] theorem dropDatagram_perfHint (c : ErrCode) : (dropDatagram c s).perfHint = s.perfHint := rfl
@[simp] theorem dropDatagram_sockBound (c : ErrCode) : (dropDatagram c s).sockBound = s.sockBound := rfl
@[simp] theorem dropDatagram_pktBuf (c : ErrCode) : (dropDatagram c s).pktBuf = s.pktBuf := rfl
@[simp] theorem dropDatagram_bufLen (c : ErrCode) : (dropDatagram c s).bufLen = s.bufLen := rfl
@[simp] theorem dropDatagram_pkt (c : ErrCode) : (dropDatagram c s).pkt = s.pkt := rfl
@[simp] theorem dropDatagram_pktValid (c : ErrCode) : (dropDatagram c s).pktValid = s.pktValid := rfl
@[simp] theorem dropDatagram_cur (c : ErrCode) : (dropDatagram c s).cur = s.cur := rfl
@[simp] theorem dropDatagram_net (c : ErrCode) : (dropDatagram c s).net = s.net := rfl
@[simp] theorem dropDatagram_offer (c : ErrCode) : (dropDatagram c s).offer = s.offer := rfl
@[simp] theorem dropDatagram_hostProgram (c : ErrCode) : (dropDatagram c s).hostProgram = s.hostProgram := rfl
@[simp] theorem dropDatagram_hostRead (c : ErrCode) : (dropDatagram c s).hostRead = s.hostRead := rfl
@[simp] theorem dropDatagram_downRead (c : ErrCode) : (dropDatagram c s).downRead = s.downRead := rfl
@[simp] theorem dropDatagram_schedule (c : ErrCode) : (dropDatagram c s).schedule = s.schedule := rfl
@[simp] theorem dropDatagram_draws (c : ErrCode) : (dropDatagram c s).draws = s.draws := rfl

/-! ## failDecode -/

@[simp] theorem failDecode_params (c : ErrCode) : (failDecode c s).params = s.params := rfl
@[simp] theorem failDecode_cfg (c : ErrCode) : (failDecode c s).cfg = s.cfg := rfl
@[simp] theorem failDecode_act (c : ErrCode) : (failDecode c s).act = s.act := rfl
@[simp] theorem failDecode_pend (c : ErrCode) : (failDecode c s).pend = s.pend := rfl
@[simp] theorem failDecode_rxOkCount (c : ErrCode) : (failDecode c s).rxOkCount = s.rxOkCount := rfl
@[simp] theorem failDecode_rxDropCount (c : ErrCode) : (failDecode c s).rxDropCount = s.rxDropCount + 1 := rfl
@[simp] theorem failDecode_sessionErr (c : ErrCode) : (failDecode c s).sessionErr = s.sessionErr := rfl
@[simp] theorem failDecode_lastDecodeErr (c : ErrCode) : (failDecode c s).lastDecodeErr = c := rfl
@[simp] theorem failDecode_session (c : ErrCode) : (failDecode c s).session = s.session := rfl
@[simp] theorem failDecode_loop (c : ErrCode) : (failDecode c s).loop = .check := rfl
@[simp] theorem failDecode_run (c : ErrCode) : (failDecode c s).run = s.run := rfl
@[simp] theorem failDecode_restart (c : ErrCode) : (failDecode c s).restart = s.restart := rfl
@[simp] theorem failDecode_perfHint (c : ErrCode) : (failDecode c s).perfHint = s.perfHint := rfl
@[simp] theorem failDecode_sockBound (c : ErrCode) : (failDecode c s).sockBound = s.sockBound := rfl
@[simp] theorem failDecode_pktBuf (c : ErrCode) : (failDecode c s).pktBuf = s.pktBuf := rfl
@[simp] theorem failDecode_bufLen (c : ErrCode) : (failDecode c s).bufLen = s.bufLen := rfl
@[simp] theorem failDecode_pkt (c : ErrCode) : (failDecode c s).pkt = freePacket (indexBits s.params) s.draws := rfl
@[simp] theorem failDecode_pktValid (c : ErrCode) : (failDecode c s).pktValid = s.pktValid := rfl
@[simp] theorem failDecode_cur (c : ErrCode) : (failDecode c s).cur = freeCur (indexBits s.params) s.draws := rfl
@[simp] theorem failDecode_net (c : ErrCode) : (failDecode c s).net = s.net := rfl
@[simp] theorem failDecode_offer (c : ErrCode) : (failDecode c s).offer = s.offer := rfl
@[simp] theorem failDecode_hostProgram (c : ErrCode) : (failDecode c s).hostProgram = s.hostProgram := rfl
@[simp] theorem failDecode_hostRead (c : ErrCode) : (failDecode c s).hostRead = s.hostRead := rfl
@[simp] theorem failDecode_downRead (c : ErrCode) : (failDecode c s).downRead = s.downRead := rfl
@[simp] theorem failDecode_schedule (c : ErrCode) : (failDecode c s).schedule = s.schedule := rfl
@[simp] theorem failDecode_draws (c : ErrCode) : (failDecode c s).draws = s.draws + 1 := rfl

/-! ## acceptPacket -/

@[simp] theorem acceptPacket_params (p : Packet) : (acceptPacket p s).params = s.params := rfl
@[simp] theorem acceptPacket_cfg (p : Packet) : (acceptPacket p s).cfg = s.cfg := rfl
@[simp] theorem acceptPacket_act (p : Packet) : (acceptPacket p s).act = s.act := rfl
@[simp] theorem acceptPacket_pend (p : Packet) : (acceptPacket p s).pend = s.pend := rfl
@[simp] theorem acceptPacket_rxOkCount (p : Packet) : (acceptPacket p s).rxOkCount = s.rxOkCount + 1 := rfl
@[simp] theorem acceptPacket_rxDropCount (p : Packet) : (acceptPacket p s).rxDropCount = s.rxDropCount := rfl
@[simp] theorem acceptPacket_sessionErr (p : Packet) : (acceptPacket p s).sessionErr = s.sessionErr := rfl
@[simp] theorem acceptPacket_lastDecodeErr (p : Packet) : (acceptPacket p s).lastDecodeErr = s.lastDecodeErr := rfl
@[simp] theorem acceptPacket_session (p : Packet) : (acceptPacket p s).session = s.session := rfl
@[simp] theorem acceptPacket_loop (p : Packet) : (acceptPacket p s).loop = .dispatch := rfl
@[simp] theorem acceptPacket_run (p : Packet) : (acceptPacket p s).run = s.run := rfl
@[simp] theorem acceptPacket_restart (p : Packet) : (acceptPacket p s).restart = s.restart := rfl
@[simp] theorem acceptPacket_perfHint (p : Packet) : (acceptPacket p s).perfHint = s.perfHint := rfl
@[simp] theorem acceptPacket_sockBound (p : Packet) : (acceptPacket p s).sockBound = s.sockBound := rfl
@[simp] theorem acceptPacket_pktBuf (p : Packet) : (acceptPacket p s).pktBuf = s.pktBuf := rfl
@[simp] theorem acceptPacket_bufLen (p : Packet) : (acceptPacket p s).bufLen = s.bufLen := rfl
@[simp] theorem acceptPacket_pkt (p : Packet) : (acceptPacket p s).pkt = p := rfl
@[simp] theorem acceptPacket_pktValid (p : Packet) : (acceptPacket p s).pktValid = true := rfl
@[simp] theorem acceptPacket_cur (p : Packet) : (acceptPacket p s).cur = freeCur (indexBits s.params) s.draws := rfl
@[simp] theorem acceptPacket_net (p : Packet) : (acceptPacket p s).net = s.net := rfl
@[simp] theorem acceptPacket_offer (p : Packet) : (acceptPacket p s).offer = some (dispatchRecord p s.act.stream) := rfl
@[simp] theorem acceptPacket_hostProgram (p : Packet) : (acceptPacket p s).hostProgram = s.hostProgram := rfl
@[simp] theorem acceptPacket_hostRead (p : Packet) : (acceptPacket p s).hostRead = s.hostRead := rfl
@[simp] theorem acceptPacket_downRead (p : Packet) : (acceptPacket p s).downRead = s.downRead := rfl
@[simp] theorem acceptPacket_schedule (p : Packet) : (acceptPacket p s).schedule = s.schedule := rfl
@[simp] theorem acceptPacket_draws (p : Packet) : (acceptPacket p s).draws = s.draws + 1 := rfl

/-! ## latchConfig -/

@[simp] theorem latchConfig_params : (latchConfig s).params = s.params := rfl
@[simp] theorem latchConfig_cfg : (latchConfig s).cfg = s.cfg := rfl
@[simp] theorem latchConfig_act : (latchConfig s).act = s.act := rfl
@[simp] theorem latchConfig_pend : (latchConfig s).pend = s.cfg := rfl
@[simp] theorem latchConfig_rxOkCount : (latchConfig s).rxOkCount = s.rxOkCount := rfl
@[simp] theorem latchConfig_rxDropCount : (latchConfig s).rxDropCount = s.rxDropCount := rfl
@[simp] theorem latchConfig_sessionErr : (latchConfig s).sessionErr = s.sessionErr := rfl
@[simp] theorem latchConfig_lastDecodeErr : (latchConfig s).lastDecodeErr = s.lastDecodeErr := rfl
@[simp] theorem latchConfig_session : (latchConfig s).session = s.session := rfl
@[simp] theorem latchConfig_loop : (latchConfig s).loop = s.loop := rfl
@[simp] theorem latchConfig_run : (latchConfig s).run = s.run := rfl
@[simp] theorem latchConfig_restart : (latchConfig s).restart = s.restart := rfl
@[simp] theorem latchConfig_perfHint : (latchConfig s).perfHint = s.perfHint := rfl
@[simp] theorem latchConfig_sockBound : (latchConfig s).sockBound = s.sockBound := rfl
@[simp] theorem latchConfig_pktBuf : (latchConfig s).pktBuf = s.pktBuf := rfl
@[simp] theorem latchConfig_bufLen : (latchConfig s).bufLen = s.bufLen := rfl
@[simp] theorem latchConfig_pkt : (latchConfig s).pkt = s.pkt := rfl
@[simp] theorem latchConfig_pktValid : (latchConfig s).pktValid = s.pktValid := rfl
@[simp] theorem latchConfig_cur : (latchConfig s).cur = s.cur := rfl
@[simp] theorem latchConfig_net : (latchConfig s).net = s.net := rfl
@[simp] theorem latchConfig_offer : (latchConfig s).offer = s.offer := rfl
@[simp] theorem latchConfig_hostProgram : (latchConfig s).hostProgram = s.hostProgram := rfl
@[simp] theorem latchConfig_hostRead : (latchConfig s).hostRead = s.hostRead := rfl
@[simp] theorem latchConfig_downRead : (latchConfig s).downRead = s.downRead := rfl
@[simp] theorem latchConfig_schedule : (latchConfig s).schedule = s.schedule := rfl
@[simp] theorem latchConfig_draws : (latchConfig s).draws = s.draws := rfl

/-! ## beginRunning -/

@[simp] theorem beginRunning_params (b : Binding) : (beginRunning b s).params = s.params := rfl
@[simp] theorem beginRunning_cfg (b : Binding) : (beginRunning b s).cfg = s.cfg := rfl
@[simp] theorem beginRunning_act (b : Binding) : (beginRunning b s).act = s.act := rfl
@[simp] theorem beginRunning_pend (b : Binding) : (beginRunning b s).pend = s.pend := rfl
@[simp] theorem beginRunning_rxOkCount (b : Binding) : (beginRunning b s).rxOkCount = s.rxOkCount := rfl
@[simp] theorem beginRunning_rxDropCount (b : Binding) : (beginRunning b s).rxDropCount = s.rxDropCount := rfl
@[simp] theorem beginRunning_sessionErr (b : Binding) : (beginRunning b s).sessionErr = s.sessionErr := rfl
@[simp] theorem beginRunning_lastDecodeErr (b : Binding) : (beginRunning b s).lastDecodeErr = s.lastDecodeErr := rfl
@[simp] theorem beginRunning_session (b : Binding) : (beginRunning b s).session = .running := rfl
@[simp] theorem beginRunning_loop (b : Binding) : (beginRunning b s).loop = .check := rfl
@[simp] theorem beginRunning_run (b : Binding) : (beginRunning b s).run = true := rfl
@[simp] theorem beginRunning_restart (b : Binding) : (beginRunning b s).restart = s.restart := rfl
@[simp] theorem beginRunning_perfHint (b : Binding) : (beginRunning b s).perfHint = true := rfl
@[simp] theorem beginRunning_sockBound (b : Binding) : (beginRunning b s).sockBound = true := rfl
@[simp] theorem beginRunning_pktBuf (b : Binding) : (beginRunning b s).pktBuf = s.pktBuf := rfl
@[simp] theorem beginRunning_bufLen (b : Binding) : (beginRunning b s).bufLen = s.bufLen := rfl
@[simp] theorem beginRunning_pkt (b : Binding) : (beginRunning b s).pkt = s.pkt := rfl
@[simp] theorem beginRunning_pktValid (b : Binding) : (beginRunning b s).pktValid = s.pktValid := rfl
@[simp] theorem beginRunning_cur (b : Binding) : (beginRunning b s).cur = s.cur := rfl
@[simp] theorem beginRunning_net (b : Binding) : (beginRunning b s).net = ⟨none, some b, s.net.queue⟩ := rfl
@[simp] theorem beginRunning_offer (b : Binding) : (beginRunning b s).offer = s.offer := rfl
@[simp] theorem beginRunning_hostProgram (b : Binding) : (beginRunning b s).hostProgram = s.hostProgram := rfl
@[simp] theorem beginRunning_hostRead (b : Binding) : (beginRunning b s).hostRead = s.hostRead := rfl
@[simp] theorem beginRunning_downRead (b : Binding) : (beginRunning b s).downRead = s.downRead := rfl
@[simp] theorem beginRunning_schedule (b : Binding) : (beginRunning b s).schedule = s.schedule := rfl
@[simp] theorem beginRunning_draws (b : Binding) : (beginRunning b s).draws = s.draws := rfl

/-! ## failBind -/

@[simp] theorem failBind_params (c : ErrCode) : (failBind c s).params = s.params := rfl
@[simp] theorem failBind_cfg (c : ErrCode) : (failBind c s).cfg = s.cfg := rfl
@[simp] theorem failBind_act (c : ErrCode) : (failBind c s).act = s.act := rfl
@[simp] theorem failBind_pend (c : ErrCode) : (failBind c s).pend = s.pend := rfl
@[simp] theorem failBind_rxOkCount (c : ErrCode) : (failBind c s).rxOkCount = s.rxOkCount := rfl
@[simp] theorem failBind_rxDropCount (c : ErrCode) : (failBind c s).rxDropCount = s.rxDropCount := rfl
@[simp] theorem failBind_sessionErr (c : ErrCode) : (failBind c s).sessionErr = c := rfl
@[simp] theorem failBind_lastDecodeErr (c : ErrCode) : (failBind c s).lastDecodeErr = s.lastDecodeErr := rfl
@[simp] theorem failBind_session (c : ErrCode) : (failBind c s).session = .stopped := rfl
@[simp] theorem failBind_loop (c : ErrCode) : (failBind c s).loop = s.loop := rfl
@[simp] theorem failBind_run (c : ErrCode) : (failBind c s).run = s.run := rfl
@[simp] theorem failBind_restart (c : ErrCode) : (failBind c s).restart = s.restart := rfl
@[simp] theorem failBind_perfHint (c : ErrCode) : (failBind c s).perfHint = s.perfHint := rfl
@[simp] theorem failBind_sockBound (c : ErrCode) : (failBind c s).sockBound = s.sockBound := rfl
@[simp] theorem failBind_pktBuf (c : ErrCode) : (failBind c s).pktBuf = s.pktBuf := rfl
@[simp] theorem failBind_bufLen (c : ErrCode) : (failBind c s).bufLen = s.bufLen := rfl
@[simp] theorem failBind_pkt (c : ErrCode) : (failBind c s).pkt = s.pkt := rfl
@[simp] theorem failBind_pktValid (c : ErrCode) : (failBind c s).pktValid = s.pktValid := rfl
@[simp] theorem failBind_cur (c : ErrCode) : (failBind c s).cur = s.cur := rfl
@[simp] theorem failBind_net (c : ErrCode) : (failBind c s).net = ⟨none, s.net.binding, s.net.queue⟩ := rfl
@[simp] theorem failBind_offer (c : ErrCode) : (failBind c s).offer = s.offer := rfl
@[simp] theorem failBind_hostProgram (c : ErrCode) : (failBind c s).hostProgram = s.hostProgram := rfl
@[simp] theorem failBind_hostRead (c : ErrCode) : (failBind c s).hostRead = s.hostRead := rfl
@[simp] theorem failBind_downRead (c : ErrCode) : (failBind c s).downRead = s.downRead := rfl
@[simp] theorem failBind_schedule (c : ErrCode) : (failBind c s).schedule = s.schedule := rfl
@[simp] theorem failBind_draws (c : ErrCode) : (failBind c s).draws = s.draws := rfl

/-! ## beginStopping -/

@[simp] theorem beginStopping_params (again : Bool) : (beginStopping again s).params = s.params := rfl
@[simp] theorem beginStopping_cfg (again : Bool) : (beginStopping again s).cfg = s.cfg := rfl
@[simp] theorem beginStopping_act (again : Bool) : (beginStopping again s).act = s.act := rfl
@[simp] theorem beginStopping_pend (again : Bool) : (beginStopping again s).pend = s.pend := rfl
@[simp] theorem beginStopping_rxOkCount (again : Bool) : (beginStopping again s).rxOkCount = s.rxOkCount := rfl
@[simp] theorem beginStopping_rxDropCount (again : Bool) : (beginStopping again s).rxDropCount = s.rxDropCount := rfl
@[simp] theorem beginStopping_sessionErr (again : Bool) : (beginStopping again s).sessionErr = s.sessionErr := rfl
@[simp] theorem beginStopping_lastDecodeErr (again : Bool) : (beginStopping again s).lastDecodeErr = s.lastDecodeErr := rfl
@[simp] theorem beginStopping_session (again : Bool) : (beginStopping again s).session = .stopping := rfl
@[simp] theorem beginStopping_loop (again : Bool) : (beginStopping again s).loop = s.loop := rfl
@[simp] theorem beginStopping_run (again : Bool) : (beginStopping again s).run = false := rfl
@[simp] theorem beginStopping_restart (again : Bool) : (beginStopping again s).restart = again := rfl
@[simp] theorem beginStopping_perfHint (again : Bool) : (beginStopping again s).perfHint = s.perfHint := rfl
@[simp] theorem beginStopping_sockBound (again : Bool) : (beginStopping again s).sockBound = s.sockBound := rfl
@[simp] theorem beginStopping_pktBuf (again : Bool) : (beginStopping again s).pktBuf = s.pktBuf := rfl
@[simp] theorem beginStopping_bufLen (again : Bool) : (beginStopping again s).bufLen = s.bufLen := rfl
@[simp] theorem beginStopping_pkt (again : Bool) : (beginStopping again s).pkt = s.pkt := rfl
@[simp] theorem beginStopping_pktValid (again : Bool) : (beginStopping again s).pktValid = s.pktValid := rfl
@[simp] theorem beginStopping_cur (again : Bool) : (beginStopping again s).cur = s.cur := rfl
@[simp] theorem beginStopping_net (again : Bool) : (beginStopping again s).net = s.net := rfl
@[simp] theorem beginStopping_offer (again : Bool) : (beginStopping again s).offer = s.offer := rfl
@[simp] theorem beginStopping_hostProgram (again : Bool) : (beginStopping again s).hostProgram = s.hostProgram := rfl
@[simp] theorem beginStopping_hostRead (again : Bool) : (beginStopping again s).hostRead = s.hostRead := rfl
@[simp] theorem beginStopping_downRead (again : Bool) : (beginStopping again s).downRead = s.downRead := rfl
@[simp] theorem beginStopping_schedule (again : Bool) : (beginStopping again s).schedule = s.schedule := rfl
@[simp] theorem beginStopping_draws (again : Bool) : (beginStopping again s).draws = s.draws := rfl

/-! ## releaseSession -/

@[simp] theorem releaseSession_params : (releaseSession s).params = s.params := rfl
@[simp] theorem releaseSession_cfg : (releaseSession s).cfg = s.cfg := rfl
@[simp] theorem releaseSession_act : (releaseSession s).act = s.act := rfl
@[simp] theorem releaseSession_pend : (releaseSession s).pend = s.pend := rfl
@[simp] theorem releaseSession_rxOkCount : (releaseSession s).rxOkCount = s.rxOkCount := rfl
@[simp] theorem releaseSession_rxDropCount : (releaseSession s).rxDropCount = s.rxDropCount := rfl
@[simp] theorem releaseSession_sessionErr : (releaseSession s).sessionErr = s.sessionErr := rfl
@[simp] theorem releaseSession_lastDecodeErr : (releaseSession s).lastDecodeErr = s.lastDecodeErr := rfl
@[simp] theorem releaseSession_session : (releaseSession s).session = .stopped := rfl
@[simp] theorem releaseSession_loop : (releaseSession s).loop = s.loop := rfl
@[simp] theorem releaseSession_run : (releaseSession s).run = s.run := rfl
@[simp] theorem releaseSession_restart : (releaseSession s).restart = s.restart := rfl
@[simp] theorem releaseSession_perfHint : (releaseSession s).perfHint = false := rfl
@[simp] theorem releaseSession_sockBound : (releaseSession s).sockBound = false := rfl
@[simp] theorem releaseSession_pktBuf : (releaseSession s).pktBuf = s.pktBuf := rfl
@[simp] theorem releaseSession_bufLen : (releaseSession s).bufLen = s.bufLen := rfl
@[simp] theorem releaseSession_pkt : (releaseSession s).pkt = s.pkt := rfl
@[simp] theorem releaseSession_pktValid : (releaseSession s).pktValid = s.pktValid := rfl
@[simp] theorem releaseSession_cur : (releaseSession s).cur = s.cur := rfl
@[simp] theorem releaseSession_net : (releaseSession s).net = ⟨s.net.request, none, []⟩ := rfl
@[simp] theorem releaseSession_offer : (releaseSession s).offer = s.offer := rfl
@[simp] theorem releaseSession_hostProgram : (releaseSession s).hostProgram = s.hostProgram := rfl
@[simp] theorem releaseSession_hostRead : (releaseSession s).hostRead = s.hostRead := rfl
@[simp] theorem releaseSession_downRead : (releaseSession s).downRead = s.downRead := rfl
@[simp] theorem releaseSession_schedule : (releaseSession s).schedule = s.schedule := rfl
@[simp] theorem releaseSession_draws : (releaseSession s).draws = s.draws := rfl

/-! ## endDispatch -/

@[simp] theorem endDispatch_params : (endDispatch s).params = s.params := rfl
@[simp] theorem endDispatch_cfg : (endDispatch s).cfg = s.cfg := rfl
@[simp] theorem endDispatch_act : (endDispatch s).act = s.act := rfl
@[simp] theorem endDispatch_pend : (endDispatch s).pend = s.pend := rfl
@[simp] theorem endDispatch_rxOkCount : (endDispatch s).rxOkCount = s.rxOkCount := rfl
@[simp] theorem endDispatch_rxDropCount : (endDispatch s).rxDropCount = s.rxDropCount := rfl
@[simp] theorem endDispatch_sessionErr : (endDispatch s).sessionErr = s.sessionErr := rfl
@[simp] theorem endDispatch_lastDecodeErr : (endDispatch s).lastDecodeErr = s.lastDecodeErr := rfl
@[simp] theorem endDispatch_session : (endDispatch s).session = s.session := rfl
@[simp] theorem endDispatch_loop : (endDispatch s).loop = .check := rfl
@[simp] theorem endDispatch_run : (endDispatch s).run = s.run := rfl
@[simp] theorem endDispatch_restart : (endDispatch s).restart = s.restart := rfl
@[simp] theorem endDispatch_perfHint : (endDispatch s).perfHint = s.perfHint := rfl
@[simp] theorem endDispatch_sockBound : (endDispatch s).sockBound = s.sockBound := rfl
@[simp] theorem endDispatch_pktBuf : (endDispatch s).pktBuf = s.pktBuf := rfl
@[simp] theorem endDispatch_bufLen : (endDispatch s).bufLen = s.bufLen := rfl
@[simp] theorem endDispatch_pkt : (endDispatch s).pkt = s.pkt := rfl
@[simp] theorem endDispatch_pktValid : (endDispatch s).pktValid = false := rfl
@[simp] theorem endDispatch_cur : (endDispatch s).cur = s.cur := rfl
@[simp] theorem endDispatch_net : (endDispatch s).net = s.net := rfl
@[simp] theorem endDispatch_offer : (endDispatch s).offer = none := rfl
@[simp] theorem endDispatch_hostProgram : (endDispatch s).hostProgram = s.hostProgram := rfl
@[simp] theorem endDispatch_hostRead : (endDispatch s).hostRead = s.hostRead := rfl
@[simp] theorem endDispatch_downRead : (endDispatch s).downRead = s.downRead := rfl
@[simp] theorem endDispatch_schedule : (endDispatch s).schedule = s.schedule := rfl
@[simp] theorem endDispatch_draws : (endDispatch s).draws = s.draws := rfl

/-! ## fatalReport -/

@[simp] theorem fatalReport_params : (fatalReport s).params = s.params := rfl
@[simp] theorem fatalReport_cfg : (fatalReport s).cfg = s.cfg := rfl
@[simp] theorem fatalReport_act : (fatalReport s).act = s.act := rfl
@[simp] theorem fatalReport_pend : (fatalReport s).pend = s.pend := rfl
@[simp] theorem fatalReport_rxOkCount : (fatalReport s).rxOkCount = s.rxOkCount := rfl
@[simp] theorem fatalReport_rxDropCount : (fatalReport s).rxDropCount = s.rxDropCount := rfl
@[simp] theorem fatalReport_sessionErr : (fatalReport s).sessionErr = .unsupportedSampleFormat := rfl
@[simp] theorem fatalReport_lastDecodeErr : (fatalReport s).lastDecodeErr = s.lastDecodeErr := rfl
@[simp] theorem fatalReport_session : (fatalReport s).session = if s.session = .running then .stopping else s.session := rfl
@[simp] theorem fatalReport_loop : (fatalReport s).loop = .check := rfl
@[simp] theorem fatalReport_run : (fatalReport s).run = false := rfl
@[simp] theorem fatalReport_restart : (fatalReport s).restart = false := rfl
@[simp] theorem fatalReport_perfHint : (fatalReport s).perfHint = s.perfHint := rfl
@[simp] theorem fatalReport_sockBound : (fatalReport s).sockBound = s.sockBound := rfl
@[simp] theorem fatalReport_pktBuf : (fatalReport s).pktBuf = s.pktBuf := rfl
@[simp] theorem fatalReport_bufLen : (fatalReport s).bufLen = s.bufLen := rfl
@[simp] theorem fatalReport_pkt : (fatalReport s).pkt = s.pkt := rfl
@[simp] theorem fatalReport_pktValid : (fatalReport s).pktValid = false := rfl
@[simp] theorem fatalReport_cur : (fatalReport s).cur = s.cur := rfl
@[simp] theorem fatalReport_net : (fatalReport s).net = s.net := rfl
@[simp] theorem fatalReport_offer : (fatalReport s).offer = none := rfl
@[simp] theorem fatalReport_hostProgram : (fatalReport s).hostProgram = s.hostProgram := rfl
@[simp] theorem fatalReport_hostRead : (fatalReport s).hostRead = s.hostRead := rfl
@[simp] theorem fatalReport_downRead : (fatalReport s).downRead = s.downRead := rfl
@[simp] theorem fatalReport_schedule : (fatalReport s).schedule = s.schedule := rfl
@[simp] theorem fatalReport_draws : (fatalReport s).draws = s.draws := rfl

/-! ## ingest -/

@[simp] theorem ingest_params (d : List Byte) : (ingest d s).params = s.params := rfl
@[simp] theorem ingest_cfg (d : List Byte) : (ingest d s).cfg = s.cfg := rfl
@[simp] theorem ingest_act (d : List Byte) : (ingest d s).act = s.act := rfl
@[simp] theorem ingest_pend (d : List Byte) : (ingest d s).pend = s.pend := rfl
@[simp] theorem ingest_rxOkCount (d : List Byte) : (ingest d s).rxOkCount = s.rxOkCount := rfl
@[simp] theorem ingest_rxDropCount (d : List Byte) : (ingest d s).rxDropCount = s.rxDropCount := rfl
@[simp] theorem ingest_sessionErr (d : List Byte) : (ingest d s).sessionErr = s.sessionErr := rfl
@[simp] theorem ingest_lastDecodeErr (d : List Byte) : (ingest d s).lastDecodeErr = s.lastDecodeErr := rfl
@[simp] theorem ingest_session (d : List Byte) : (ingest d s).session = s.session := rfl
@[simp] theorem ingest_loop (d : List Byte) : (ingest d s).loop = .process := rfl
@[simp] theorem ingest_run (d : List Byte) : (ingest d s).run = s.run := rfl
@[simp] theorem ingest_restart (d : List Byte) : (ingest d s).restart = s.restart := rfl
@[simp] theorem ingest_perfHint (d : List Byte) : (ingest d s).perfHint = s.perfHint := rfl
@[simp] theorem ingest_sockBound (d : List Byte) : (ingest d s).sockBound = s.sockBound := rfl
@[simp] theorem ingest_pktBuf (d : List Byte) : (ingest d s).pktBuf = s.pktBuf.writeBytes 0 d := rfl
@[simp] theorem ingest_bufLen (d : List Byte) : (ingest d s).bufLen = d.length := rfl
@[simp] theorem ingest_pkt (d : List Byte) : (ingest d s).pkt = s.pkt := rfl
@[simp] theorem ingest_pktValid (d : List Byte) : (ingest d s).pktValid = s.pktValid := rfl
@[simp] theorem ingest_cur (d : List Byte) : (ingest d s).cur = s.cur := rfl
@[simp] theorem ingest_net (d : List Byte) : (ingest d s).net = s.net := rfl
@[simp] theorem ingest_offer (d : List Byte) : (ingest d s).offer = s.offer := rfl
@[simp] theorem ingest_hostProgram (d : List Byte) : (ingest d s).hostProgram = s.hostProgram := rfl
@[simp] theorem ingest_hostRead (d : List Byte) : (ingest d s).hostRead = s.hostRead := rfl
@[simp] theorem ingest_downRead (d : List Byte) : (ingest d s).downRead = s.downRead := rfl
@[simp] theorem ingest_schedule (d : List Byte) : (ingest d s).schedule = s.schedule := rfl
@[simp] theorem ingest_draws (d : List Byte) : (ingest d s).draws = s.draws := rfl

/-! ## resetBlock -/

@[simp] theorem resetBlock_params : (resetBlock s).params = s.params := rfl
@[simp] theorem resetBlock_cfg : (resetBlock s).cfg = SessionConfig.reset := rfl
@[simp] theorem resetBlock_act : (resetBlock s).act = SessionConfig.reset := rfl
@[simp] theorem resetBlock_pend : (resetBlock s).pend = SessionConfig.reset := rfl
@[simp] theorem resetBlock_rxOkCount : (resetBlock s).rxOkCount = 0 := rfl
@[simp] theorem resetBlock_rxDropCount : (resetBlock s).rxDropCount = 0 := rfl
@[simp] theorem resetBlock_sessionErr : (resetBlock s).sessionErr = .none := rfl
@[simp] theorem resetBlock_lastDecodeErr : (resetBlock s).lastDecodeErr = .none := rfl
@[simp] theorem resetBlock_session : (resetBlock s).session = .stopped := rfl
@[simp] theorem resetBlock_loop : (resetBlock s).loop = .idle := rfl
@[simp] theorem resetBlock_run : (resetBlock s).run = false := rfl
@[simp] theorem resetBlock_restart : (resetBlock s).restart = false := rfl
@[simp] theorem resetBlock_perfHint : (resetBlock s).perfHint = false := rfl
@[simp] theorem resetBlock_sockBound : (resetBlock s).sockBound = false := rfl
@[simp] theorem resetBlock_pktBuf : (resetBlock s).pktBuf = [] := rfl
@[simp] theorem resetBlock_bufLen : (resetBlock s).bufLen = 0 := rfl
@[simp] theorem resetBlock_pkt : (resetBlock s).pkt = freePacket (indexBits s.params) s.draws := rfl
@[simp] theorem resetBlock_pktValid : (resetBlock s).pktValid = false := rfl
@[simp] theorem resetBlock_cur : (resetBlock s).cur = freeCur (indexBits s.params) s.draws := rfl
@[simp] theorem resetBlock_net : (resetBlock s).net = ⟨none, none, []⟩ := rfl
@[simp] theorem resetBlock_offer : (resetBlock s).offer = none := rfl
@[simp] theorem resetBlock_hostProgram : (resetBlock s).hostProgram = s.hostProgram := rfl
@[simp] theorem resetBlock_hostRead : (resetBlock s).hostRead = s.hostRead := rfl
@[simp] theorem resetBlock_downRead : (resetBlock s).downRead = s.downRead := rfl
@[simp] theorem resetBlock_schedule : (resetBlock s).schedule = s.schedule := rfl
@[simp] theorem resetBlock_draws : (resetBlock s).draws = s.draws + 1 := rfl

/-! ## The packet a decode builds -/

section
variable (p x : Bool) (cc : BitVec 4) (h : FixedHeader) (l : List Word) (e : ExtensionBlock) (len k : Nat)

@[simp] theorem buildPacket_version : (buildPacket p x cc h l e len k).version = 2 := rfl
@[simp] theorem buildPacket_padding : (buildPacket p x cc h l e len k).padding = p := rfl
@[simp] theorem buildPacket_extension : (buildPacket p x cc h l e len k).extension = x := rfl
@[simp] theorem buildPacket_csrcCount : (buildPacket p x cc h l e len k).csrcCount = cc := rfl
@[simp] theorem buildPacket_marker : (buildPacket p x cc h l e len k).marker = h.marker := rfl
@[simp] theorem buildPacket_payloadType : (buildPacket p x cc h l e len k).payloadType = h.payloadType := rfl
@[simp] theorem buildPacket_sequenceNumber : (buildPacket p x cc h l e len k).sequenceNumber = h.sequenceNumber := rfl
@[simp] theorem buildPacket_timestamp : (buildPacket p x cc h l e len k).timestamp = h.timestamp := rfl
@[simp] theorem buildPacket_ssrc : (buildPacket p x cc h l e len k).ssrc = h.ssrc := rfl
@[simp] theorem buildPacket_csrc : (buildPacket p x cc h l e len k).csrc = csrcFile l k := rfl
@[simp] theorem buildPacket_extensionHeaderId : (buildPacket p x cc h l e len k).extensionHeaderId = e.headerId := rfl
@[simp] theorem buildPacket_extensionHeaderLength : (buildPacket p x cc h l e len k).extensionHeaderLength = e.headerLength := rfl
@[simp] theorem buildPacket_extOffset : (buildPacket p x cc h l e len k).extOffset = e.offset := rfl
@[simp] theorem buildPacket_payloadOffset : (buildPacket p x cc h l e len k).payloadOffset = e.cursor := rfl
@[simp] theorem buildPacket_payloadLength : (buildPacket p x cc h l e len k).payloadLength = len - e.cursor := rfl

end

end Sys2Proof.Machine
end

