-- ==== Sys2Proof/Laws/Memory.lean ====
section
/-! SUPPORT. The laws of PKTBUF: a read after a write, the canonical form kept, what ingress leaves at each index, and what a window reads. -/

namespace Sys2Proof.Machine

@[simp] theorem Memory.read_nil (x : Nat) : Memory.read [] x = none := rfl

theorem Memory.read_cons (a : Nat) (v : Byte) (m : Memory) (x : Nat) :
    Memory.read ((a, v) :: m) x = if x = a then some v else Memory.read m x := rfl

/-- A read after a write gives the value written at its index and the old value elsewhere. -/
theorem Memory.read_write (m : Memory) (x y : Nat) (v : Byte) :
    (m.write x v).read y = if y = x then some v else m.read y := by
  induction m with
  | nil => rfl
  | cons c m ih =>
    obtain ⟨a, u⟩ := c
    simp only [Memory.write]
    by_cases hlt : x < a
    · simp only [if_pos hlt, Memory.read_cons]
    · by_cases heq : x = a
      · subst heq
        simp only [if_neg hlt, ite_true, Memory.read_cons]
        by_cases hy : y = x <;> simp [hy]
      · simp only [if_neg hlt, if_neg heq, Memory.read_cons, ih]
        by_cases hy : y = x
        · subst hy; simp [heq]
        · simp [hy]

/-- Every entry of a memory after a write is an entry from before or the one written. -/
theorem Memory.mem_write {m : Memory} {x : Nat} {v : Byte} {c : Host.Cell} (h : c ∈ m.write x v) :
    c ∈ m ∨ c = (x, v) := by
  induction m with
  | nil => exact .inr (List.mem_singleton.1 h)
  | cons d m ih =>
    obtain ⟨a, u⟩ := d
    simp only [Memory.write] at h
    split at h
    · simpa [or_comm] using h
    · split at h
      · rcases List.mem_cons.1 h with h | h
        · exact .inr h
        · exact .inl (List.mem_cons_of_mem _ h)
      · rcases List.mem_cons.1 h with h | h
        · exact .inl (h ▸ List.mem_cons_self)
        · exact (ih h).imp_left (List.mem_cons_of_mem _)

/-- A write keeps the canonical form. -/
theorem Memory.write_wf {m : Memory} (x : Nat) (v : Byte) (h : m.wf) : (m.write x v).wf := by
  induction m with
  | nil => simp [Memory.write]
  | cons c m ih =>
    obtain ⟨a, u⟩ := c
    obtain ⟨hc, hm⟩ := List.pairwise_cons.1 h
    simp only [Memory.write]
    split
    · rename_i hlt
      refine List.pairwise_cons.2 ⟨fun d hd => ?_, h⟩
      rcases List.mem_cons.1 hd with rfl | hd
      · exact hlt
      · exact Nat.lt_trans hlt (hc d hd)
    · split
      · rename_i heq
        exact List.pairwise_cons.2 ⟨fun d hd => heq ▸ hc d hd, hm⟩
      · refine List.pairwise_cons.2 ⟨fun d hd => ?_, ih hm⟩
        rcases Memory.mem_write hd with hd | rfl
        · exact hc d hd
        · simp only
          omega

/-- Writing bytes keeps the canonical form. -/
theorem Memory.writeBytes_wf {m : Memory} (start : Nat) (d : List Byte) (h : m.wf) : (m.writeBytes start d).wf := by
  induction d generalizing m start with
  | nil => exact h
  | cons v d ih => exact ih (start + 1) (Memory.write_wf start v h)

/-- Every entry after writing bytes is an entry from before or lies in the range written. -/
theorem Memory.mem_writeBytes {m : Memory} {start : Nat} {d : List Byte} {c : Host.Cell}
    (h : c ∈ m.writeBytes start d) : c ∈ m ∨ (start ≤ c.1 ∧ c.1 < start + d.length) := by
  induction d generalizing m start with
  | nil => exact .inl h
  | cons v d ih =>
    rcases ih h with h | h
    · rcases Memory.mem_write h with h | rfl
      · exact .inl h
      · exact .inr (by simp)
    · exact .inr (by simp only [List.length_cons]; omega)

/-- What each index reads as after bytes were written: the bytes in their range, the old value outside it. -/
theorem Memory.read_writeBytes (m : Memory) (start : Nat) (d : List Byte) (x : Nat) :
    (m.writeBytes start d).read x =
      if start ≤ x ∧ x < start + d.length then d[x - start]? else m.read x := by
  induction d generalizing m start with
  | nil => simp [Memory.writeBytes]
  | cons v d ih =>
    simp only [Memory.writeBytes, ih, Memory.read_write, List.length_cons]
    by_cases hx : x = start
    · subst hx; simp
    · by_cases hr : start + 1 ≤ x ∧ x < start + 1 + d.length
      · rw [if_pos hr, if_pos (by omega), show x - start = (x - (start + 1)) + 1 by omega, List.getElem?_cons_succ]
      · rw [if_neg hr, if_neg hx, if_neg (by omega)]

/-- A datagram written to an empty buffer reads back at every index. -/
@[simp] theorem read_memoryOf (d : List Byte) (x : Nat) : (memoryOf d).read x = d[x]? := by
  rw [memoryOf, Memory.read_writeBytes]
  by_cases h : x < d.length
  · simp [h]
  · simp [h]

/-- A window has a value exactly when every one of its bytes has, and is then the bytes in order. -/
theorem Memory.window_eq_some {m : Memory} {off n : Nat} {d : List Byte} :
    m.window off n = some d ↔ d.length = n ∧ ∀ k < n, m.read (off + k) = d[k]? := by
  induction n generalizing off d with
  | zero =>
    simp only [Memory.window, Option.some.injEq]
    constructor
    · rintro rfl; simp
    · rintro ⟨h, -⟩; exact (List.length_eq_zero_iff.1 h).symm
  | succ n ih =>
    simp only [Memory.window]
    constructor
    · intro h
      split at h
      · rename_i b bs hb hbs
        obtain rfl := Option.some.inj h
        obtain ⟨hl, hr⟩ := ih.1 hbs
        refine ⟨by simp [hl], fun k hk => ?_⟩
        cases k with
        | zero => simpa using hb
        | succ k =>
          rw [List.getElem?_cons_succ, ← hr k (by omega)]
          congr 1
          omega
      · cases h
    · rintro ⟨hl, hr⟩
      cases d with
      | nil => simp at hl
      | cons b bs =>
        have h0 : m.read off = some b := by simpa using hr 0 (by omega)
        have hbs : m.window (off + 1) n = some bs := by
          refine ih.2 ⟨by simpa using hl, fun k hk => ?_⟩
          rw [← List.getElem?_cons_succ (a := b), ← hr (k + 1) (by omega)]
          congr 1
          omega
        rw [h0, hbs]

/-- A window whose bytes are all listed has a value. -/
theorem Memory.window_isSome {m : Memory} {off n : Nat} (h : ∀ k < n, (m.read (off + k)).isSome) :
    ∃ d, m.window off n = some d ∧ d.length = n := by
  induction n generalizing off with
  | zero => exact ⟨[], rfl, rfl⟩
  | succ n ih =>
    obtain ⟨b, hb⟩ := Option.isSome_iff_exists.1 (h 0 (by omega))
    obtain ⟨bs, hbs, hl⟩ := ih (off := off + 1) fun k hk => by
      have := h (k + 1) (by omega)
      rwa [show off + 1 + k = off + (k + 1) by omega]
    exact ⟨b :: bs, by simp only [Memory.window]; rw [show off = off + 0 from rfl, hb, hbs], by simp [hl]⟩

end Sys2Proof.Machine
end

