-- ==== Sys2Proof/Laws/Reads.lean ====
section
/-! SUPPORT. The reads of a decode, said once each: when they succeed, how they fail, and that they depend only on the bytes below L. -/

namespace Sys2Proof.Machine

/-- Every index below `len` has a byte. -/
abbrev Memory.filled (m : Memory) (len : Nat) : Prop := ∀ a < len, (m.read a).isSome

/-- Two memories hold the same bytes below `len`. -/
abbrev Memory.agree (m m' : Memory) (len : Nat) : Prop := ∀ a < len, m.read a = m'.read a

@[simp] theorem except_ok_bind {ε α β : Type} (a : α) (f : α → Except ε β) : (Except.ok a >>= f) = f a := rfl

@[simp] theorem except_error_bind {ε α β : Type} (e : ε) (f : α → Except ε β) :
    ((Except.error e : Except ε α) >>= f) = .error e := rfl

/-- A bind succeeds exactly when both its parts do. -/
theorem except_bind_eq_ok {ε α β : Type} {x : Except ε α} {f : α → Except ε β} {b : β} :
    (x >>= f) = .ok b ↔ ∃ a, x = .ok a ∧ f a = .ok b := by
  cases x with
  | ok a => simp
  | error e => simp

/-- A bind fails exactly when its first part does, or its second after it. -/
theorem except_bind_eq_error {ε α β : Type} {x : Except ε α} {f : α → Except ε β} {e : ε} :
    (x >>= f) = .error e ↔ x = .error e ∨ ∃ a, x = .ok a ∧ f a = .error e := by
  cases x with
  | ok a => simp
  | error e' => simp

/-! ## One byte -/

theorem byteAt_eq_ok {m : Memory} {len a : Nat} {b : Byte} :
    byteAt m len a = .ok b ↔ a < len ∧ m.read a = some b := by
  unfold byteAt
  by_cases h : a < len
  · cases hr : m.read a with
    | none => simp [h]
    | some v => simp [h]
  · simp [h]

theorem byteAt_eq_error {m : Memory} {len a : Nat} {e : DecodeStop} :
    byteAt m len a = .error e ↔ e = .noByte a ∧ (len ≤ a ∨ m.read a = none) := by
  unfold byteAt
  by_cases h : a < len
  · cases hr : m.read a with
    | none => simp [h, eq_comm]
    | some v => simp [h]
  · simp [h, eq_comm, Nat.le_of_not_lt h]

theorem byteAt_of_filled {m : Memory} {len a : Nat} (hf : m.filled len) (h : a < len) :
    ∃ b, m.read a = some b ∧ byteAt m len a = .ok b := by
  obtain ⟨b, hb⟩ := Option.isSome_iff_exists.1 (hf a h)
  exact ⟨b, hb, byteAt_eq_ok.2 ⟨h, hb⟩⟩

theorem byteAt_congr {m m' : Memory} {len : Nat} (h : m.agree m' len) (a : Nat) :
    byteAt m len a = byteAt m' len a := by
  unfold byteAt
  split
  · rename_i hlt
    rw [h a hlt]
  · rfl

/-! ## MemRead -/

/-- A MemRead inside the datagram has a value of its width (R17). -/
theorem memRead_of_filled {m : Memory} {len a n : Nat} (hf : m.filled len) (h : a + n ≤ len) :
    ∃ v < 256 ^ n, memRead m len a n = .ok v := by
  induction n generalizing a with
  | zero => exact ⟨0, by simp, rfl⟩
  | succ n ih =>
    obtain ⟨b, -, hb⟩ := byteAt_of_filled hf (show a < len by omega)
    obtain ⟨v, hv, hm⟩ := ih (a := a + 1) (by omega)
    refine ⟨b.toNat * 256 ^ n + v, ?_, by simp [memRead, hb, hm]⟩
    have h1 : b.toNat < 256 := b.isLt
    calc b.toNat * 256 ^ n + v < b.toNat * 256 ^ n + 256 ^ n := by omega
      _ = (b.toNat + 1) * 256 ^ n := by rw [Nat.add_mul, Nat.one_mul]
      _ ≤ 256 * 256 ^ n := Nat.mul_le_mul_right _ h1
      _ = 256 ^ (n + 1) := by rw [Nat.pow_succ, Nat.mul_comm]

/-- A MemRead that succeeds has a value of its width. -/
theorem memRead_lt {m : Memory} {len a n v : Nat} (h : memRead m len a n = .ok v) : v < 256 ^ n := by
  induction n generalizing a v with
  | zero => cases h; simp
  | succ n ih =>
    simp only [memRead, except_bind_eq_ok] at h
    obtain ⟨b, -, w, hw, hv⟩ := h
    obtain rfl := Except.ok.inj hv
    have h1 : b.toNat < 256 := b.isLt
    have h2 := ih hw
    calc b.toNat * 256 ^ n + w < b.toNat * 256 ^ n + 256 ^ n := by omega
      _ = (b.toNat + 1) * 256 ^ n := by rw [Nat.add_mul, Nat.one_mul]
      _ ≤ 256 * 256 ^ n := Nat.mul_le_mul_right _ h1
      _ = 256 ^ (n + 1) := by rw [Nat.pow_succ, Nat.mul_comm]

/-- A MemRead fails only at a byte of its range that is at or above L or has no value. -/
theorem memRead_error {m : Memory} {len a n : Nat} {e : DecodeStop} (h : memRead m len a n = .error e) :
    ∃ x, e = .noByte x ∧ a ≤ x ∧ x < a + n ∧ (len ≤ x ∨ m.read x = none) := by
  induction n generalizing a with
  | zero => cases h
  | succ n ih =>
    simp only [memRead, except_bind_eq_error] at h
    rcases h with h | ⟨b, -, h | ⟨v, -, h⟩⟩
    · obtain ⟨rfl, hx⟩ := byteAt_eq_error.1 h
      exact ⟨a, rfl, by omega, by omega, hx⟩
    · obtain ⟨x, rfl, h1, h2, h3⟩ := ih h
      exact ⟨x, rfl, by omega, by omega, h3⟩
    · cases h

theorem memRead_congr {m m' : Memory} {len : Nat} (h : m.agree m' len) (a n : Nat) :
    memRead m len a n = memRead m' len a n := by
  induction n generalizing a with
  | zero => rfl
  | succ n ih => simp only [memRead, byteAt_congr h, ih]

/-! ## Fields and the CSRC list -/

/-- A 16-bit field holds exactly what MemRead gives. -/
theorem readHalf_eq_ok {m : Memory} {len a : Nat} {v : Half} :
    readHalf m len a = .ok v ↔ memRead m len a 2 = .ok v.toNat := by
  simp only [readHalf, except_bind_eq_ok, Except.ok.injEq]
  constructor
  · rintro ⟨n, hn, rfl⟩
    have := memRead_lt hn
    rw [hn, BitVec.toNat_ofNat, Nat.mod_eq_of_lt (by simpa using this)]
  · intro h
    exact ⟨v.toNat, h, by simp⟩

/-- A 32-bit field holds exactly what MemRead gives. -/
theorem readWord_eq_ok {m : Memory} {len a : Nat} {v : Word} :
    readWord m len a = .ok v ↔ memRead m len a 4 = .ok v.toNat := by
  simp only [readWord, except_bind_eq_ok, Except.ok.injEq]
  constructor
  · rintro ⟨n, hn, rfl⟩
    have := memRead_lt hn
    rw [hn, BitVec.toNat_ofNat, Nat.mod_eq_of_lt (by simpa using this)]
  · intro h
    exact ⟨v.toNat, h, by simp⟩

theorem readHalf_of_filled {m : Memory} {len a : Nat} (hf : m.filled len) (h : a + 2 ≤ len) :
    ∃ v, readHalf m len a = .ok v := by
  obtain ⟨v, -, hv⟩ := memRead_of_filled hf h
  exact ⟨_, by simp only [readHalf, hv, except_ok_bind]; rfl⟩

theorem readWord_of_filled {m : Memory} {len a : Nat} (hf : m.filled len) (h : a + 4 ≤ len) :
    ∃ v, readWord m len a = .ok v := by
  obtain ⟨v, -, hv⟩ := memRead_of_filled hf h
  exact ⟨_, by simp only [readWord, hv, except_ok_bind]; rfl⟩

theorem readHalf_error {m : Memory} {len a : Nat} {e : DecodeStop} (h : readHalf m len a = .error e) :
    ∃ x, e = .noByte x := by
  simp only [readHalf, except_bind_eq_error] at h
  rcases h with h | ⟨_, -, h⟩
  · obtain ⟨x, hx, -⟩ := memRead_error h
    exact ⟨x, hx⟩
  · cases h

theorem readWord_error {m : Memory} {len a : Nat} {e : DecodeStop} (h : readWord m len a = .error e) :
    ∃ x, e = .noByte x := by
  simp only [readWord, except_bind_eq_error] at h
  rcases h with h | ⟨_, -, h⟩
  · obtain ⟨x, hx, -⟩ := memRead_error h
    exact ⟨x, hx⟩
  · cases h

theorem readWords_of_filled {m : Memory} {len a n : Nat} (hf : m.filled len) (h : a + 4 * n ≤ len) :
    ∃ ws, readWords m len a n = .ok ws := by
  induction n generalizing a with
  | zero => exact ⟨[], rfl⟩
  | succ n ih =>
    obtain ⟨w, hw⟩ := readWord_of_filled hf (show a + 4 ≤ len by omega)
    obtain ⟨ws, hws⟩ := ih (a := a + 4) (by omega)
    exact ⟨w :: ws, by simp [readWords, hw, hws]⟩

/-- The CSRC list read holds one word per entry, in wire order (R114). -/
theorem readWords_eq_ok {m : Memory} {len a n : Nat} {ws : List Word} (h : readWords m len a n = .ok ws) :
    ws.length = n ∧ ∀ i (hi : i < ws.length), readWord m len (a + 4 * i) = .ok ws[i] := by
  induction n generalizing a ws with
  | zero => cases h; simp
  | succ n ih =>
    simp only [readWords, except_bind_eq_ok] at h
    obtain ⟨w, hw, ws', hws, he⟩ := h
    obtain rfl := Except.ok.inj he
    obtain ⟨hl, hi⟩ := ih hws
    refine ⟨by simp [hl], fun i hlt => ?_⟩
    cases i with
    | zero => simpa using hw
    | succ i =>
      have := hi i (by simpa using hlt)
      simpa [Nat.mul_add, Nat.add_assoc, Nat.add_comm, Nat.add_left_comm] using this

theorem readWords_error {m : Memory} {len a n : Nat} {e : DecodeStop} (h : readWords m len a n = .error e) :
    ∃ x, e = .noByte x := by
  induction n generalizing a with
  | zero => cases h
  | succ n ih =>
    simp only [readWords, except_bind_eq_error] at h
    rcases h with h | ⟨_, -, h | ⟨_, -, h⟩⟩
    · exact readWord_error h
    · exact ih h
    · cases h

theorem readHalf_congr {m m' : Memory} {len : Nat} (h : m.agree m' len) (a : Nat) :
    readHalf m len a = readHalf m' len a := by
  simp only [readHalf, memRead_congr h]

theorem readWord_congr {m m' : Memory} {len : Nat} (h : m.agree m' len) (a : Nat) :
    readWord m len a = readWord m' len a := by
  simp only [readWord, memRead_congr h]

theorem readWords_congr {m m' : Memory} {len : Nat} (h : m.agree m' len) (a n : Nat) :
    readWords m len a n = readWords m' len a n := by
  induction n generalizing a with
  | zero => rfl
  | succ n ih => simp only [readWords, readWord_congr h, ih]

/-! ## The parts of a packet -/

/-- The fixed header is read from bytes 1 to 11 (R112, R113). -/
theorem readFixedHeader_eq_ok {m : Memory} {len : Nat} {h : FixedHeader} (hr : readFixedHeader m len = .ok h) :
    (∃ b, m.read 1 = some b ∧ h.marker = b.getLsbD 7 ∧ h.payloadType = b.extractLsb' 0 7) ∧
      memRead m len 2 2 = .ok h.sequenceNumber.toNat ∧ memRead m len 4 4 = .ok h.timestamp.toNat ∧
      memRead m len 8 4 = .ok h.ssrc.toNat := by
  simp only [readFixedHeader, except_bind_eq_ok] at hr
  obtain ⟨b, hb, sq, hsq, ts, hts, ss, hss, he⟩ := hr
  obtain rfl := Except.ok.inj he
  exact ⟨⟨b, (byteAt_eq_ok.1 hb).2, rfl, rfl⟩, readHalf_eq_ok.1 hsq, readWord_eq_ok.1 hts, readWord_eq_ok.1 hss⟩

theorem readFixedHeader_of_filled {m : Memory} {len : Nat} (hf : m.filled len) (h : 12 ≤ len) :
    ∃ x, readFixedHeader m len = .ok x := by
  obtain ⟨b, -, hb⟩ := byteAt_of_filled hf (show 1 < len by omega)
  obtain ⟨sq, hsq⟩ := readHalf_of_filled hf (show 2 + 2 ≤ len by omega)
  obtain ⟨ts, hts⟩ := readWord_of_filled hf (show 4 + 4 ≤ len by omega)
  obtain ⟨ss, hss⟩ := readWord_of_filled hf (show 8 + 4 ≤ len by omega)
  exact ⟨_, by simp only [readFixedHeader, hb, hsq, hts, hss, except_ok_bind]; rfl⟩

theorem readFixedHeader_error {m : Memory} {len : Nat} {e : DecodeStop} (h : readFixedHeader m len = .error e) :
    ∃ x, e = .noByte x := by
  simp only [readFixedHeader, except_bind_eq_error] at h
  rcases h with h | ⟨_, -, h | ⟨_, -, h | ⟨_, -, h | ⟨_, -, h⟩⟩⟩⟩
  · exact ⟨1, (byteAt_eq_error.1 h).1⟩
  · exact readHalf_error h
  · exact readWord_error h
  · exact readWord_error h
  · cases h

theorem readFixedHeader_congr {m m' : Memory} {len : Nat} (h : m.agree m' len) :
    readFixedHeader m len = readFixedHeader m' len := by
  simp only [readFixedHeader, byteAt_congr h, readHalf_congr h, readWord_congr h]

/-- CC has four bits (R156). -/
theorem csrcCount_le (cc : BitVec 4) : ¬ Config.maxCsrc < cc.toNat := by
  have := cc.isLt
  simp only [Config.maxCsrc]
  omega

/-- The CSRC list ends at 12 + 4·CC, inside the datagram, and holds CC words (R114, R118). -/
theorem readCsrcList_eq_ok {m : Memory} {len : Nat} {cc : BitVec 4} {ws : List Word} {cur : Nat}
    (h : readCsrcList m len cc = .ok (ws, cur)) (hlen : 12 ≤ len) :
    cur = 12 + 4 * cc.toNat ∧ cur ≤ len ∧ ws.length = cc.toNat ∧
      ∀ i (hi : i < ws.length), memRead m len (12 + 4 * i) 4 = .ok (ws[i]).toNat := by
  unfold readCsrcList at h
  rw [if_neg (csrcCount_le cc)] at h
  split at h
  · rename_i hcc
    obtain ⟨rfl, rfl⟩ := Prod.mk.inj (Except.ok.inj h)
    subst hcc
    simpa using hlen
  · split at h
    · cases h
    · rename_i hroom
      rw [except_bind_eq_ok] at h
      obtain ⟨ws', hws, he⟩ := h
      obtain ⟨rfl, rfl⟩ := Prod.mk.inj (Except.ok.inj he)
      obtain ⟨hl, hi⟩ := readWords_eq_ok hws
      exact ⟨rfl, by omega, hl, fun i hlt => readWord_eq_ok.1 (hi i hlt)⟩

/-- On a buffer that holds its datagram, the CSRC list is read exactly when it fits (R157). -/
theorem readCsrcList_of_filled {m : Memory} {len : Nat} (cc : BitVec 4) (hf : m.filled len) (h : 12 < len) :
    (len < 12 + 4 * cc.toNat → readCsrcList m len cc = .error (.raise .bufferTooShort)) ∧
      (12 + 4 * cc.toNat ≤ len → ∃ ws, readCsrcList m len cc = .ok (ws, 12 + 4 * cc.toNat)) := by
  unfold readCsrcList
  rw [if_neg (csrcCount_le cc)]
  by_cases hcc : cc = 0
  · subst hcc
    exact ⟨fun hl => by simp at hl; omega, fun _ => ⟨[], by simp⟩⟩
  · rw [if_neg hcc]
    refine ⟨fun hl => if_pos (by omega), fun hl => ?_⟩
    obtain ⟨ws, hws⟩ := readWords_of_filled hf hl
    exact ⟨ws, by rw [if_neg (by omega), hws, except_ok_bind]⟩

theorem readCsrcList_error {m : Memory} {len : Nat} {cc : BitVec 4} {e : DecodeStop}
    (h : readCsrcList m len cc = .error e) : (∃ x, e = .noByte x) ∨ e = .raise .bufferTooShort := by
  unfold readCsrcList at h
  rw [if_neg (csrcCount_le cc)] at h
  split at h
  · cases h
  · split at h
    · exact .inr (Except.error.inj h).symm
    · rw [except_bind_eq_error] at h
      rcases h with h | ⟨_, -, h⟩
      · exact .inl (readWords_error h)
      · cases h

theorem readCsrcList_congr {m m' : Memory} {len : Nat} (h : m.agree m' len) (cc : BitVec 4) :
    readCsrcList m len cc = readCsrcList m' len cc := by
  simp only [readCsrcList, readWords_congr h]

/-- The extension block: its header fields, its body right after the preamble, its end inside the datagram (R115). -/
theorem readExtension_eq_ok {m : Memory} {len cur : Nat} {e : ExtensionBlock}
    (h : readExtension m len cur = .ok e) (hcur : cur ≤ len) :
    memRead m len cur 2 = .ok e.headerId.toNat ∧ memRead m len (cur + 2) 2 = .ok e.headerLength.toNat ∧
      e.offset = cur + 4 ∧ e.cursor = cur + 4 + e.headerLength.toNat ∧ e.cursor ≤ len := by
  unfold readExtension at h
  split at h
  · cases h
  · simp only [except_bind_eq_ok] at h
    obtain ⟨hid, h1, hl, h2, h3⟩ := h
    split at h3
    · cases h3
    · obtain rfl := Except.ok.inj h3
      exact ⟨readHalf_eq_ok.1 h1, readHalf_eq_ok.1 h2, rfl, rfl, by simp only; omega⟩

theorem readExtension_error {m : Memory} {len cur : Nat} {e : DecodeStop} (h : readExtension m len cur = .error e) :
    (∃ x, e = .noByte x) ∨ e = .raise .bufferTooShort := by
  unfold readExtension at h
  split at h
  · exact .inr (Except.error.inj h).symm
  · simp only [except_bind_eq_error] at h
    rcases h with h | ⟨_, -, h | ⟨_, -, h⟩⟩
    · exact .inl (readHalf_error h)
    · exact .inl (readHalf_error h)
    · split at h
      · exact .inr (Except.error.inj h).symm
      · cases h

/-- On a buffer that holds its datagram, the extension block is read exactly when preamble and body fit (R157). -/
theorem readExtension_of_filled {m : Memory} {len cur : Nat} (hf : m.filled len) (hcur : cur ≤ len) :
    (len < cur + 4 → readExtension m len cur = .error (.raise .bufferTooShort)) ∧
      (cur + 4 ≤ len → ∃ hid hlen : Half, memRead m len cur 2 = .ok hid.toNat ∧
        memRead m len (cur + 2) 2 = .ok hlen.toNat ∧
        (len < cur + 4 + hlen.toNat → readExtension m len cur = .error (.raise .bufferTooShort)) ∧
        (cur + 4 + hlen.toNat ≤ len →
          readExtension m len cur = .ok ⟨hid, hlen, cur + 4, cur + 4 + hlen.toNat⟩)) := by
  refine ⟨fun h => if_pos (by omega), fun h => ?_⟩
  obtain ⟨hid, h1⟩ := readHalf_of_filled hf (show cur + 2 ≤ len by omega)
  obtain ⟨hlen, h2⟩ := readHalf_of_filled hf (show cur + 2 + 2 ≤ len by omega)
  refine ⟨hid, hlen, readHalf_eq_ok.1 h1, readHalf_eq_ok.1 h2, fun hl => ?_, fun hl => ?_⟩
  · simp only [readExtension, h1, h2, except_ok_bind]
    rw [if_neg (by omega), if_pos (by omega)]
  · simp only [readExtension, h1, h2, except_ok_bind]
    rw [if_neg (by omega), if_neg (by omega)]

theorem readExtension_congr {m m' : Memory} {len : Nat} (h : m.agree m' len) (cur : Nat) :
    readExtension m len cur = readExtension m' len cur := by
  simp only [readExtension, readHalf_congr h]

/-! ## The CSRC register file -/

/-- An entry below the list's length holds the list's word (R53). -/
theorem csrcFile_getElem {l : List Word} {k i : Nat} (h : i < 15) (hl : i < l.length) : (csrcFile l k)[i] = l[i] := by
  simp [csrcFile, hl]

/-- The entries of the packet's list are the list (R53). -/
theorem csrcFile_take {l : List Word} {k : Nat} (hl : l.length ≤ 15) : (csrcFile l k).toList.take l.length = l := by
  apply List.ext_getElem
  · simp [hl]
  · intro i h1 h2
    rw [List.getElem_take]
    have := csrcFile_getElem (k := k) (show i < 15 by omega) h2
    simpa using this

end Sys2Proof.Machine
end

