-- ==== Sys2Proof/Laws/Decoder.lean ====
section
/-! SUPPORT. DECODE and the Process step, said once: what a packet decoded from a buffer is made of, which errors there are, and what a packet
form's next state is. -/

namespace Sys2Proof.Machine

/-- Everything an `Ok` of DECODE says: version 2, the parts read in order, each ending inside the datagram, and the packet built of
them (R151). -/
theorem decodePacket_eq_ok {m : Memory} {len k : Nat} {p : Packet} (h : decodePacket m len k = .ok p) :
    ∃ b hd ws e, 12 < len ∧ byteAt m len 0 = .ok b ∧ byte0Version b = 2 ∧ readFixedHeader m len = .ok hd ∧
      readCsrcList m len (byte0CsrcCount b) = .ok (ws, 12 + 4 * (byte0CsrcCount b).toNat) ∧
      12 + 4 * (byte0CsrcCount b).toNat ≤ len ∧
      p = buildPacket (byte0Padding b) (byte0Extension b) (byte0CsrcCount b) hd ws e len k ∧
      ((byte0Extension b = false ∧ e = noExtension (12 + 4 * (byte0CsrcCount b).toNat)) ∨
        (byte0Extension b = true ∧ readExtension m len (12 + 4 * (byte0CsrcCount b).toNat) = .ok e)) := by
  unfold decodePacket at h
  split at h
  · cases h
  rename_i hlen
  simp only [except_bind_eq_ok] at h
  obtain ⟨b, hb, h⟩ := h
  split at h
  · cases h
  rename_i hv
  simp only [except_bind_eq_ok] at h
  obtain ⟨hd, hh, ⟨ws, cur⟩, hw, h⟩ := h
  obtain ⟨rfl, hle, -, -⟩ := readCsrcList_eq_ok hw (by omega)
  split at h
  · rename_i hx
    simp only [except_bind_eq_ok] at h
    obtain ⟨e, he, h⟩ := h
    cases h
    exact ⟨b, hd, ws, e, by omega, hb, not_not.1 hv, hh, hw, hle, by rw [hx], .inr ⟨hx, he⟩⟩
  · rename_i hx
    rw [Bool.not_eq_true] at hx
    cases h
    exact ⟨b, hd, ws, _, by omega, hb, not_not.1 hv, hh, hw, hle, by rw [hx], .inl ⟨hx, rfl⟩⟩

/-- Every way DECODE can end early: three error codes, or a byte that may not be read (R150). -/
theorem decodePacket_eq_error {m : Memory} {len k : Nat} {e : DecodeStop} (h : decodePacket m len k = .error e) :
    e = .raise .tooShort ∨ e = .raise .unsupportedVersion ∨ e = .raise .bufferTooShort ∨ ∃ x, e = .noByte x := by
  unfold decodePacket at h
  split at h
  · exact .inl (Except.error.inj h).symm
  simp only [except_bind_eq_error] at h
  rcases h with h | ⟨b, hb, h⟩
  · exact .inr (.inr (.inr ⟨_, (byteAt_eq_error.1 h).1⟩))
  split at h
  · exact .inr (.inl (Except.error.inj h).symm)
  simp only [except_bind_eq_error] at h
  rcases h with h | ⟨hd, -, h | ⟨ws, -, h⟩⟩
  · exact .inr (.inr (.inr (readFixedHeader_error h)))
  · rcases readCsrcList_error h with h | h
    · exact .inr (.inr (.inr h))
    · exact .inr (.inr (.inl h))
  · split at h
    · simp only [except_bind_eq_error] at h
      rcases h with h | ⟨_, -, h⟩
      · rcases readExtension_error h with h | h
        · exact .inr (.inr (.inr h))
        · exact .inr (.inr (.inl h))
      · cases h
    · cases h

/-- A Process step that has a next state was in Process and dropped or accepted the datagram (R284). -/
theorem inProcess_eq_next {r : DecodeResult} {s t : State} (h : inProcess r s = .next t) :
    s.loop = .process ∧
      ((∃ c, r = .error (.raise c) ∧ t = failDecode c s) ∨ ∃ p, r = .ok p ∧ t = acceptPacket p s) := by
  unfold inProcess at h
  split at h
  · rename_i hl
    refine ⟨hl, ?_⟩
    unfold processResult at h
    split at h
    · exact .inr ⟨_, rfl, (Host.Outcome.next.inj h).symm⟩
    · exact .inl ⟨_, rfl, (Host.Outcome.next.inj h).symm⟩
    · cases h
  · cases h

/-- Every packet form is a Process step with some decode result. -/
theorem exec_form {i : Instr} (hi : isForm i = true) (s : State) : ∃ r, exec i s = inProcess r s := by
  cases i with
  | decV2 p cc => exact ⟨_, rfl⟩
  | decV2X p cc => exact ⟨_, rfl⟩
  | decV0 r => exact ⟨_, rfl⟩
  | decV1 r => exact ⟨_, rfl⟩
  | decV3 r => exact ⟨_, rfl⟩
  | cmdNop g => cases hi
  | cmdStart g => cases hi
  | cmdStop g => cases hi
  | cmdReconfigure g => cases hi
  | cmdRsvdLow op g => cases hi
  | cmdRsvdHigh op g => cases hi

end Sys2Proof.Machine
end

