-- ==== Sys2Proof/Laws/PerInstr.lean ====
section
/-! SUPPORT. What holds of each instruction as syntax. The family TableRow: the words of a well-formed instruction have the bits its row of
the opcode table asks for. -/

namespace Sys2Proof.Laws.TableRow

/-- The encoding of a well-formed instruction matches its own row of spec/opcode_table.json. -/
def Statement (i : Instr) : Prop :=
  i.wf = true → ∃ r, opcodeTable[i.rowIndex]? = some r ∧ r.matches (encode i) = true

theorem decV2 (padding : Bool) (csrcCount : BitVec 4) : Statement (.decV2 padding csrcCount) := by
  intro _
  exact ⟨_, rfl, by revert padding csrcCount; decide⟩

theorem decV2X (padding : Bool) (csrcCount : BitVec 4) : Statement (.decV2X padding csrcCount) := by
  intro _
  exact ⟨_, rfl, by revert padding csrcCount; decide⟩

theorem decV0 (rest : BitVec 6) : Statement (.decV0 rest) := fun _ => ⟨_, rfl, by revert rest; decide⟩

theorem decV1 (rest : BitVec 6) : Statement (.decV1 rest) := fun _ => ⟨_, rfl, by revert rest; decide⟩

theorem decV3 (rest : BitVec 6) : Statement (.decV3 rest) := fun _ => ⟨_, rfl, by revert rest; decide⟩

/-- A command word has the masked bits of its OPCODE. -/
theorem commandWord_matches {r : OpcodeRow} (op m p : BitVec 4) (ign : BitVec 28) (hf : r.isForm = false)
    (hm : r.mask = m.setWidth 32) (hp : r.pattern = p.setWidth 32) (h : op &&& m = p) :
    r.matches (.command (commandWord op ign)) = true := by
  have := (command_mask (commandWord op ign) m p).2 (by rw [commandOpcode_commandWord]; exact h)
  simp [OpcodeRow.matches, hf, hm, hp, this]

theorem cmdNop (ignored : BitVec 28) : Statement (.cmdNop ignored) :=
  fun _ => ⟨_, rfl, commandWord_matches _ 0xF 0 _ rfl rfl rfl rfl⟩

theorem cmdStart (ignored : BitVec 28) : Statement (.cmdStart ignored) :=
  fun _ => ⟨_, rfl, commandWord_matches _ 0xF 1 _ rfl rfl rfl rfl⟩

theorem cmdStop (ignored : BitVec 28) : Statement (.cmdStop ignored) :=
  fun _ => ⟨_, rfl, commandWord_matches _ 0xF 2 _ rfl rfl rfl rfl⟩

theorem cmdReconfigure (ignored : BitVec 28) : Statement (.cmdReconfigure ignored) :=
  fun _ => ⟨_, rfl, commandWord_matches _ 0xF 3 _ rfl rfl rfl rfl⟩

theorem cmdRsvdLow (opcode : BitVec 4) (ignored : BitVec 28) : Statement (.cmdRsvdLow opcode ignored) := by
  intro h
  have masked : ∀ op : BitVec 4, 4 ≤ op.toNat ∧ op.toNat ≤ 7 → op &&& 0xC = 4 := by decide
  exact ⟨_, rfl, commandWord_matches _ 0xC 4 _ rfl rfl rfl (masked opcode (of_decide_eq_true h))⟩

theorem cmdRsvdHigh (opcode : BitVec 4) (ignored : BitVec 28) : Statement (.cmdRsvdHigh opcode ignored) := by
  intro h
  have masked : ∀ op : BitVec 4, 8 ≤ op.toNat → op &&& 0x8 = 8 := by decide
  exact ⟨_, rfl, commandWord_matches _ 0x8 8 _ rfl rfl rfl (masked opcode (of_decide_eq_true h))⟩

end Sys2Proof.Laws.TableRow
end

