-- ==== Sys2Proof/Laws/Step.lean ====
section
/-! SUPPORT. What a step can do, said once per agent: the step of a schedule's head, the four ways a StartSequence ends, the four
ways a command ends, and the inversion of each move. -/

namespace Sys2Proof.Machine

/-- A step runs its schedule's head on the state without it. -/
theorem step_of_schedule {s : State} {mv : Move} {rest : List Move} (h : s.schedule = mv :: rest) :
    step s = runAction (moveAction mv { s with schedule := rest }) := by
  unfold step nextAction
  rw [h]

/-- A step needs a scheduled move. -/
theorem step_schedule {s t : State} (h : step s = .next t) : ∃ mv rest, s.schedule = mv :: rest := by
  cases hs : s.schedule with
  | nil => simp [step, nextAction, hs, runAction] at h
  | cons mv rest => exact ⟨mv, rest, rfl⟩

@[simp] theorem runAction_run (i : Instr) (s : State) : runAction (.run i s) = exec i s := rfl
@[simp] theorem runAction_done (o : Host.Outcome State Fault Refusal) : runAction (.done o) = o := rfl
@[simp] theorem runAction_becomes (s : State) : runAction (becomes s) = .next s := rfl
@[simp] theorem runAction_notEnabled : runAction notEnabled = .fault .stepNotEnabled := rfl

/-! ## StartSequence -/

/-- FORMAT holds one of its four codes. -/
theorem formatLegal_iff (c : Stream) : c.formatLegal = true ↔ c.format = 0 ∨ c.format = 1 := by
  have : ∀ f : BitVec 2, decide (f.toNat < 2) = true ↔ f = 0 ∨ f = 1 := by decide
  exact this c.format

theorem formatLegal_eq_false (c : Stream) : c.formatLegal = false ↔ c.format = 2 ∨ c.format = 3 := by
  have : ∀ f : BitVec 2, decide (f.toNat < 2) = false ↔ f = 2 ∨ f = 3 := by decide
  exact this c.format

theorem rateOrLayoutReserved_iff (c : Stream) : c.rateOrLayoutReserved = true ↔ c.rate = 3 ∨ c.layout = 3 := by
  simp [Stream.rateOrLayoutReserved]

theorem rateOrLayoutReserved_eq_false (c : Stream) : c.rateOrLayoutReserved = false ↔ c.rate ≠ 3 ∧ c.layout ≠ 3 := by
  simp [Stream.rateOrLayoutReserved]

/-- Line 1 of R235. -/
theorem startSequence_noGroup {s : State} (h : s.pend.group = 0) :
    startSequence s = { s with sessionErr := .configInvalid } := if_pos h

/-- Line 2 of R235. -/
theorem startSequence_badFormat {s : State} (hg : s.pend.group ≠ 0) (hf : s.pend.stream.format = 2 ∨ s.pend.stream.format = 3) :
    startSequence s = { s with sessionErr := .unsupportedSampleFormat } :=
  (if_neg hg).trans (if_pos ((formatLegal_eq_false _).2 hf))

/-- Line 3 of R235. -/
theorem startSequence_reserved {s : State} (hg : s.pend.group ≠ 0) (hf : s.pend.stream.format = 0 ∨ s.pend.stream.format = 1)
    (hr : s.pend.stream.rate = 3 ∨ s.pend.stream.layout = 3) : startSequence s = { s with sessionErr := .configInvalid } :=
  (if_neg hg).trans ((if_neg (by simp [(formatLegal_iff _).2 hf])).trans (if_pos ((rateOrLayoutReserved_iff _).2 hr)))

/-- StartSequence on a configuration it accepts. -/
theorem startSequence_legal {s : State} (h : s.pend.legal) :
    startSequence s =
      { s with
        act := s.pend
        sessionErr := .none
        session := .starting
        net := { s.net with request := some (bindTriple s.pend) } } :=
  (if_neg h.1).trans ((if_neg (by simp [h.2.1])).trans (if_neg (by simp [h.2.2])))

/-- StartSequence on a configuration it rejects writes SESSION_ERR alone. -/
theorem startSequence_illegal {s : State} (h : ¬ s.pend.legal) :
    ∃ c, (c = .configInvalid ∨ c = .unsupportedSampleFormat) ∧ startSequence s = { s with sessionErr := c } := by
  unfold startSequence
  split
  · exact ⟨_, .inl rfl, rfl⟩
  split
  · exact ⟨_, .inr rfl, rfl⟩
  split
  · exact ⟨_, .inl rfl, rfl⟩
  · exact absurd ⟨‹_›, by simpa using ‹¬ s.pend.stream.formatLegal = false›, by simpa using ‹¬ s.pend.stream.rateOrLayoutReserved = true›⟩ h

/-! ## Commands -/

/-- A command in Stopped, in Running, and while BUSY. -/
theorem hostCommand_eq (f g : State → State) (s : State) :
    hostCommand f g s = .next (if s.session = .stopped then f s else if s.session = .running then g s else s) := by
  cases h : s.session <;> simp [hostCommand, State.busy, h]

/-- The four ways a command ends. -/
theorem exec_command_cases {i : Instr} (hi : isForm i = false) (s : State) :
    exec i s = .next s ∨
    (s.session = .stopped ∧ (∃ g, i = .cmdStart g ∨ i = .cmdReconfigure g) ∧ exec i s = .next (startSequence (latchConfig s))) ∨
    (s.session = .running ∧ (∃ g, i = .cmdStop g) ∧ exec i s = .next (beginStopping false s)) ∨
    (s.session = .running ∧ (∃ g, i = .cmdReconfigure g) ∧ exec i s = .next (beginStopping true (latchConfig s))) := by
  cases i <;> simp [isForm] at hi <;>
    cases h : s.session <;>
    simp [exec, execCmdNop, execCmdStart, execCmdStop, execCmdReconfigure, execCmdRsvdLow, execCmdRsvdHigh, hostCommand_eq, h]

/-- The word of a command has its OPCODE (R126). -/
theorem opcode_of_decodeCommand {w : Word} {g : BitVec 28} :
    (decodeCommand w = .cmdStart g → commandOpcode w = 1) ∧ (decodeCommand w = .cmdStop g → commandOpcode w = 2) ∧
      (decodeCommand w = .cmdReconfigure g → commandOpcode w = 3) := by
  unfold decodeCommand
  refine ⟨?_, ?_, ?_⟩ <;> split <;> intro h <;> first | exact opcode_eq_ofNat (by assumption) | cases h

/-- A word written to CMD is a command. -/
theorem isForm_decodeCommand (w : Word) : isForm (decodeCommand w) = false := by
  unfold decodeCommand
  split <;> rfl

/-! ## The moves -/

/-- Only offset 0 is CMD. -/
theorem ofOffset_eq_cmd {off : Nat} (h : Reg.ofOffset off = some .cmd) : off = 0 := by
  unfold Reg.ofOffset at h
  split at h <;> first | rfl | cases h

/-- An admitted access at CMD's offset is a 32-bit access of CMD's address (R31, R87). -/
theorem admitted_cmd {p : Params} {a : HostAccess} (ha : a.admitted p = true) (h0 : a.offset p = 0) :
    a = ⟨a.kind, p.regBase, 4⟩ := by
  obtain ⟨k, addr, n⟩ := a
  simp only [HostAccess.admitted, HostAccess.offset, Bool.and_eq_true, decide_eq_true_iff] at ha h0
  rw [HostAccess.mk.injEq]
  exact ⟨rfl, by omega, ha.1.2⟩

/-- Everything a host access can do: set what the Host reads, write CFG_*, or run the command written to CMD. -/
theorem hostStep_cases {s t : State} (h : runAction (hostStep s) = .next t) :
    ∃ a more, s.hostProgram = a :: more ∧ a.admitted s.params = true ∧
      ((∃ v, t = { s with hostProgram := more, hostRead := v }) ∨ (∃ c, t = { s with hostProgram := more, cfg := c }) ∨
        ∃ w, a = ⟨.write w, s.params.regBase, 4⟩ ∧ exec (decodeCommand w) { s with hostProgram := more } = .next t) := by
  unfold hostStep at h
  split at h
  · cases h
  · rename_i a more hp
    refine ⟨a, more, hp, ?_⟩
    split at h
    · rename_i ha
      refine ⟨ha, ?_⟩
      unfold hostAccess at h
      split at h
      · exact .inl ⟨_, (Host.Outcome.next.inj h).symm⟩
      · rename_i w hk
        split at h
        · rename_i r hr
          cases r with
          | cmd => exact .inr (.inr ⟨w, by rw [admitted_cmd ha (ofOffset_eq_cmd hr), hk], h⟩)
          | cfgGroup => exact .inr (.inl ⟨_, (Host.Outcome.next.inj h).symm⟩)
          | cfgIface => exact .inr (.inl ⟨_, (Host.Outcome.next.inj h).symm⟩)
          | cfgStream => exact .inr (.inl ⟨_, (Host.Outcome.next.inj h).symm⟩)
          | status => exact .inl ⟨_, (Host.Outcome.next.inj h).symm⟩
          | actGroup => exact .inl ⟨_, (Host.Outcome.next.inj h).symm⟩
          | actIface => exact .inl ⟨_, (Host.Outcome.next.inj h).symm⟩
          | actStream => exact .inl ⟨_, (Host.Outcome.next.inj h).symm⟩
          | rxOkCount => exact .inl ⟨_, (Host.Outcome.next.inj h).symm⟩
          | rxDropCount => exact .inl ⟨_, (Host.Outcome.next.inj h).symm⟩
        · exact .inl ⟨_, (Host.Outcome.next.inj h).symm⟩
    · cases h

/-- Net's answer ends Starting. -/
theorem bindRespStep_cases {s t : State} {v : BindVerdict} (h : runAction (bindRespStep v s) = .next t) :
    ∃ b, s.session = .starting ∧ s.net.request = some b ∧
      ((v = .ok ∧ t = beginRunning b s) ∨ (v = .bindFailed ∧ t = failBind .bindFailed s) ∨
        (v = .socketAllocFailed ∧ t = failBind .socketAllocFailed s)) := by
  unfold bindRespStep at h
  split at h
  · rename_i b hs hr
    refine ⟨b, hs, hr, ?_⟩
    cases v with
    | ok => exact .inl ⟨rfl, (Host.Outcome.next.inj h).symm⟩
    | bindFailed => exact .inr (.inl ⟨rfl, (Host.Outcome.next.inj h).symm⟩)
    | socketAllocFailed => exact .inr (.inr ⟨rfl, (Host.Outcome.next.inj h).symm⟩)
  · cases h

/-- An arrival needs a binding; with room it joins the queue's end. -/
theorem netArriveStep_cases {s t : State} {d : List Byte} (h : runAction (netArriveStep d s) = .next t) :
    s.net.binding ≠ none ∧
      ((s.net.queue.length < s.params.netQueueDepth ∧ t = { s with net := { s.net with queue := s.net.queue ++ [d] } }) ∨
        (¬ s.net.queue.length < s.params.netQueueDepth ∧ t = s)) := by
  unfold netArriveStep at h
  split at h
  · cases h
  · rename_i b hb
    refine ⟨by simp [hb], ?_⟩
    split at h
    · exact .inl ⟨‹_›, (Host.Outcome.next.inj h).symm⟩
    · exact .inr ⟨‹_›, (Host.Outcome.next.inj h).symm⟩

/-- A loss takes one datagram out of the queue. -/
theorem netLoseStep_cases {s t : State} {k : Nat} (h : runAction (netLoseStep k s) = .next t) :
    k < s.net.queue.length ∧ t = { s with net := { s.net with queue := s.net.queue.eraseIdx k } } := by
  unfold netLoseStep at h
  split at h
  · exact ⟨‹_›, (Host.Outcome.next.inj h).symm⟩
  · cases h

theorem checkStep_cases {s t : State} (h : runAction (checkStep s) = .next t) :
    s.loop = .check ∧ t = { s with loop := if s.run then .wait else .idle } := by
  unfold checkStep at h
  split at h
  · exact ⟨‹_›, (Host.Outcome.next.inj h).symm⟩
  · cases h

/-- Ingress takes the queue's head, and drops it or fills PKTBUF with it. -/
theorem rxDatagramStep_cases {s t : State} (h : runAction (rxDatagramStep s) = .next t) :
    ∃ d q, s.loop = .wait ∧ s.net.queue = d :: q ∧
      ((s.params.maxDatagram < d.length ∧ t = dropDatagram .datagramTooLong { s with net := { s.net with queue := q } }) ∨
        (d.length ≤ s.params.maxDatagram ∧ t = ingest d { s with net := { s.net with queue := q } })) := by
  unfold rxDatagramStep at h
  split at h
  · rename_i d q hl hq
    refine ⟨d, q, hl, hq, ?_⟩
    split at h
    · exact .inl ⟨‹_›, (Host.Outcome.next.inj h).symm⟩
    · exact .inr ⟨by omega, (Host.Outcome.next.inj h).symm⟩
  · cases h

theorem rxTimeoutStep_cases {s t : State} (h : runAction (rxTimeoutStep s) = .next t) :
    s.loop = .wait ∧ t = { s with loop := .check } := by
  unfold rxTimeoutStep at h
  split at h
  · exact ⟨‹_›, (Host.Outcome.next.inj h).symm⟩
  · cases h

/-- Process is a drop or an accept. -/
theorem processStep_cases {s t : State} (h : runAction (processStep s) = .next t) :
    s.loop = .process ∧ ((∃ c, t = failDecode c s) ∨ ∃ p, t = acceptPacket p s) := by
  unfold processStep at h
  split at h
  · rename_i hl
    refine ⟨hl, ?_⟩
    split at h
    · exact .inl ⟨_, (Host.Outcome.next.inj h).symm⟩
    · split at h
      · rename_i b hb
        have hf : isForm (decodeForm b) = true := by
          unfold decodeForm
          split <;> [rfl; rfl; (split <;> rfl); rfl]
        obtain ⟨r, hr⟩ := exec_form hf s
        rw [runAction_run, hr] at h
        obtain ⟨-, ⟨c, -, rfl⟩ | ⟨p, -, rfl⟩⟩ := inProcess_eq_next h
        · exact .inl ⟨c, rfl⟩
        · exact .inr ⟨p, rfl⟩
      · cases h
  · cases h

theorem sinkAckStep_cases {s t : State} (h : runAction (sinkAckStep s) = .next t) :
    s.loop = .dispatch ∧ t = endDispatch s := by
  unfold sinkAckStep at h
  split at h
  · exact ⟨‹_›, (Host.Outcome.next.inj h).symm⟩
  · cases h

theorem convFatalStep_cases {s t : State} (h : runAction (convFatalStep s) = .next t) :
    s.loop = .dispatch ∧ t = fatalReport s := by
  unfold convFatalStep at h
  split at h
  · exact ⟨‹_›, (Host.Outcome.next.inj h).symm⟩
  · cases h

/-- A window read writes what Down read, and with no offer draws it. -/
theorem downReadStep_cases {s t : State} {w : Window} {k : Nat} (h : runAction (downReadStep w k s) = .next t) :
    (∀ r, s.offer = some r → k < (r.place w).2) ∧ ∃ b n, t = { s with downRead := some b, draws := n } := by
  unfold downReadStep at h
  split at h
  · rename_i r hr
    split at h
    · split at h
      · exact ⟨fun r' hr' => by rw [hr] at hr'; cases hr'; assumption, _, _, (Host.Outcome.next.inj h).symm⟩
      · cases h
    · cases h
  · rename_i hr
    exact ⟨fun r' hr' => by simp [hr] at hr', _, _, (Host.Outcome.next.inj h).symm⟩

theorem completeStep_cases {s t : State} (h : runAction (completeStep s) = .next t) :
    s.session = .stopping ∧ s.loop = .idle ∧ t = completeStop s := by
  unfold completeStep at h
  split at h
  · rename_i hc
    exact ⟨hc.1, hc.2, (Host.Outcome.next.inj h).symm⟩
  · cases h

end Sys2Proof.Machine
end

