-- ==== Sys2Proof/Laws/Runs.lean ====
section
/-! SUPPORT. Infinite runs: the step at an index, and the last index of a stretch along which a property of the states holds. -/

namespace Sys2Proof.Machine

variable (mv : Move) (accesses : List HostAccess) (s : State)

@[simp] theorem State.withInput_schedule : (s.withInput mv accesses).schedule = [mv] := rfl
@[simp] theorem State.withInput_hostProgram : (s.withInput mv accesses).hostProgram = s.hostProgram ++ accesses := rfl
@[simp] theorem State.withInput_params : (s.withInput mv accesses).params = s.params := rfl
@[simp] theorem State.withInput_session : (s.withInput mv accesses).session = s.session := rfl
@[simp] theorem State.withInput_run : (s.withInput mv accesses).run = s.run := rfl
@[simp] theorem State.withInput_loop : (s.withInput mv accesses).loop = s.loop := rfl
@[simp] theorem State.withInput_net : (s.withInput mv accesses).net = s.net := rfl

/-- What comes next, and what the Host issues, is no part of the invariant. -/
theorem State.Inv.withInput {s : State} (h : s.Inv) (mv : Move) (accesses : List HostAccess) : (s.withInput mv accesses).Inv := by
  obtain ⟨a, b, c, d, e, f, g, h, i, j, k, l, m, n, o, p, q⟩ := h
  exact ⟨a, b, c, d, e, f, g, h, i, j, k, l, m, n, o, p, q⟩

/-- The step at an index of a run is its move on the state without a schedule. -/
theorem IsRun.move {states : Nat → State} {moves : Nat → Move} {accesses : Nat → List HostAccess} (h : IsRun states moves accesses)
    (n : Nat) :
    runAction (moveAction (moves n) { states n with schedule := [], hostProgram := (states n).hostProgram ++ accesses n }) =
      .next (states (n + 1)) :=
  (step_of_schedule rfl).symm.trans (h n)

/-- A property that holds at n holds for ever after, or up to a last index, after which it fails. -/
theorem holds_forever_or_ends {p : Nat → Prop} {n : Nat} (h : p n) :
    (∀ m ≥ n, p m) ∨ ∃ m ≥ n, (∀ k, n ≤ k → k ≤ m → p k) ∧ ¬ p (m + 1) := by
  by_contra hc
  rw [not_or, not_exists] at hc
  have up : ∀ m, ∀ k, n ≤ k → k ≤ n + m → p k := by
    intro m
    induction m with
    | zero => exact fun k h1 h2 => (by omega : n = k) ▸ h
    | succ m ih =>
      intro k h1 h2
      by_cases hk : k ≤ n + m
      · exact ih k h1 hk
      · by_contra hp
        exact hc.2 (n + m) ⟨by omega, ih, (by omega : k = n + m + 1) ▸ hp⟩
  exact hc.1 fun m hm => up (m - n) m hm (by omega)

end Sys2Proof.Machine
end

