-- ==== Sys2Proof/Tests/Slice0.lean ====
section
/-! SUPPORT. The model's own tests. Every expected result is one of 95_test_vectors.md (its id in the comment) or worked out by hand
from the rule named. The last section gives, for each statement with hypotheses, states and operands that meet them. -/

namespace Sys2Proof.Tests

open Sys2Proof.Machine

/-! ## Small states -/

/-- 239.1.2.3, the group G of the vectors. -/
def group : Word := 0xEF010203

/-- The configuration (G, 0, w). -/
def config (w : Word) : SessionConfig := ⟨group, 0, Stream.ofWord w⟩

/-- Stopped, with a configuration written. -/
def stopped (c : SessionConfig) : State := { State.reset with cfg := c }

/-- Starting with the configuration (G, 0, 0x15): BIND_REQ sent, no answer yet. -/
def starting : State :=
  { State.reset with
    cfg := config 0x15
    pend := config 0x15
    act := config 0x15
    session := .starting
    net := ⟨some (bindTriple (config 0x15)), none, []⟩ }

/-- Running in a phase, with the configuration (G, 0, 0x15) and an empty queue. -/
def running (l : Phase) : State :=
  { starting with
    session := .running
    run := true
    sockBound := true
    perfHint := true
    loop := l
    net := ⟨none, some (bindTriple (config 0x15)), []⟩ }

/-- Stopping in a phase. -/
def stopping (l : Phase) : State := { running l with session := .stopping, run := false }

/-- In Process with a datagram in PKTBUF. -/
def holding (d : List Byte) : State := { running .process with pktBuf := memoryOf d, bufLen := d.length }

/-- The packet of the example of R152. -/
def packet : Packet :=
  { Packet.zero with
    version := 2
    payloadType := 96
    sequenceNumber := 1
    timestamp := 0x64
    ssrc := 0x12345678
    extOffset := 12
    payloadOffset := 12
    payloadLength := 2 }

/-- The datagram of the example of R152. -/
def datagram : List Byte := [0x80, 0x60, 0x00, 0x01, 0x00, 0x00, 0x00, 0x64, 0x12, 0x34, 0x56, 0x78, 0xAA, 0xBB]

/-- In Dispatch with that packet offered. -/
def dispatching : State :=
  { holding datagram with
    loop := .dispatch
    pkt := packet
    pktValid := true
    rxOkCount := 1
    offer := some (dispatchRecord packet (config 0x15).stream) }

/-- The state with these moves scheduled. -/
def scheduled (moves : List Move) (s : State) : State := { s with schedule := moves }

/-- The state with one host access next (REG_BASE is 0 in State.reset). -/
def access (kind : AccessKind) (addr bytes : Nat) (s : State) : State :=
  { s with hostProgram := [⟨kind, addr, bytes⟩], schedule := [.host] }

/-- What a field holds in the next state; none at a fault or a refusal. -/
def after {α : Type} (f : State → α) : Host.Outcome State Fault Refusal → Option α
  | .next t => some (f t)
  | .fault _ => none
  | .refused _ => none

/-- The fault of an outcome. -/
def faultOf : Host.Outcome State Fault Refusal → Option Fault
  | .next _ => none
  | .fault f => some f
  | .refused _ => none

/-- Ten bytes 00. -/
def z10 : List Byte := List.replicate 10 0

/-! ## WellFormed -/

/-- R126: OPCODE 0x3 is RECONFIGURE, not a reserved row. -/
theorem test_wf_refuses_rsvdLow_3 : (Instr.cmdRsvdLow 3 0).wf = false := by decide

/-- R126: OPCODE 0x8 belongs to the other reserved row. -/
theorem test_wf_refuses_rsvdLow_8 : (Instr.cmdRsvdLow 8 0).wf = false := by decide

theorem test_wf_refuses_rsvdHigh_7 : (Instr.cmdRsvdHigh 7 0).wf = false := by decide

theorem test_wf_accepts_the_ends :
    (Instr.cmdRsvdLow 4 0).wf && (Instr.cmdRsvdLow 7 0).wf && (Instr.cmdRsvdHigh 8 0).wf && (Instr.cmdRsvdHigh 15 0).wf := by
  decide

/-! ## Decoding, from words written out from R111, R120, R125 and R126 -/

theorem test_decode_v2 : decodeForm 0b10100011 = .decV2 true 3 := by decide

/-- Byte 0 of the example of R153. -/
theorem test_decode_v2x : decodeForm 0x91 = .decV2X false 1 := by decide

theorem test_decode_v0 : decodeForm 0b00111111 = .decV0 0b111111 := by decide

theorem test_decode_v1 : decodeForm 0b01000001 = .decV1 1 := by decide

theorem test_decode_v3 : decodeForm 0b11000000 = .decV3 0 := by decide

/-- HV-07: bits [31:4] are ignored, here kept as the operand. -/
theorem test_decode_nop : decodeCommand 0xFFFFFFF0 = .cmdNop 0xFFFFFFF := by decide

theorem test_decode_start : decodeCommand 0xFFFFFFF1 = .cmdStart 0xFFFFFFF := by decide

theorem test_decode_stop : decodeCommand 2 = .cmdStop 0 := by decide

theorem test_decode_reconfigure : decodeCommand 0x13 = .cmdReconfigure 1 := by decide

theorem test_decode_rsvd : decodeCommand 4 = .cmdRsvdLow 4 0 ∧ decodeCommand 0xF = .cmdRsvdHigh 15 0 := by decide

/-- DV-03: twelve bytes select no form (R155). -/
theorem test_decode_short : decode (.datagram (0x80 :: 0x00 :: z10)) = .error .tooShort := by decide

/-! ## Each table row placed by withFetchWord and run as the first step after reset -/

/-- Byte 0 is 0x80 and every later byte of the 76 is 0: payload of 64 bytes at 12 (R152). -/
theorem test_fetch_v2 :
    after (fun t => (t.rxOkCount, t.pkt.payloadOffset, t.pkt.payloadLength)) (step (State.reset.withFetchWord 8 0x80)) =
      some (1, 12, 64) := by decide

/-- With CC = 15 and X = 1 the 76 bytes are header, CSRC list and preamble exactly (DV-28). -/
theorem test_fetch_v2x :
    after (fun t => (t.rxOkCount, t.pkt.payloadOffset, t.pkt.payloadLength)) (step (State.reset.withFetchWord 8 0xBF)) =
      some (1, 76, 0) := by decide

theorem test_fetch_v0_v1_v3 :
    [0x00, 0x40, 0xC0].map (fun w => after State.lastDecodeErr (step (State.reset.withFetchWord 8 w))) =
      [some .unsupportedVersion, some .unsupportedVersion, some .unsupportedVersion] := by decide

/-- At reset CFG_GROUP is 0, so START and RECONFIGURE end in CONFIG_INVALID (R235 line 1) and the others do nothing. -/
theorem test_fetch_commands :
    [0, 1, 2, 3, 4, 8].map (fun w => after State.status (step (State.reset.withFetchWord 32 w))) =
      [some 0, some 0x1000, some 0, some 0x1000, some 0, some 0] := by decide

theorem test_table_words :
    decodeTableWord 8 0x80 = some (.decV2 false 0) ∧ decodeTableWord 8 0xC0 = some (.decV3 0) ∧
      decodeTableWord 32 8 = some (.cmdRsvdHigh 8 0) ∧ decodeTableWord 8 0 = some (.decV0 0) ∧
      decodeTableWord 8 1 = some (.cmdStart 0) ∧ decodeTableWord 32 0 = some (.cmdNop 0) ∧ decodeTableWord 16 0 = none := by decide

/-! ## The packet forms -/

/-- The example of R152, and LV-05. -/
theorem test_v2_example :
    after (fun t => (t.status, t.rxOkCount, t.loop, t.pktValid, t.offer.isSome)) (exec (.decV2 false 0) (holding datagram)) =
      some (0x3A, 1, .dispatch, true, true) ∧
    after (fun t => (t.pkt.payloadType, t.pkt.sequenceNumber, t.pkt.timestamp, t.pkt.ssrc)) (exec (.decV2 false 0) (holding datagram)) =
      some (96, 1, 0x64, 0x12345678) := by decide

/-- DV-11 is one byte short; DV-12 is exact and has an empty payload. -/
theorem test_v2_csrc_boundary :
    after State.lastDecodeErr (exec (.decV2 false 1) (holding (0x81 :: 0x00 :: z10 ++ [0x11, 0x22, 0x33]))) =
      some .bufferTooShort ∧
    after (fun t => (t.pkt.csrc[0], t.pkt.payloadLength))
      (exec (.decV2 false 1) (holding (0x81 :: 0x00 :: z10 ++ [0x11, 0x22, 0x33, 0x44]))) = some (0x11223344, 0) := by decide

/-- The example of R153. -/
theorem test_v2x_example :
    after (fun t => (t.pkt.csrc[0], t.pkt.extensionHeaderId, t.pkt.extOffset, t.pkt.payloadOffset, t.pkt.payloadLength))
      (exec (.decV2X false 1) (holding [0x91, 0xE0, 0xFF, 0xFF, 0xFF, 0xFF, 0xFF, 0xFF, 0x00, 0x00, 0x00, 0x01, 0xCA, 0xFE, 0xBA,
        0xBE, 0xBE, 0xDE, 0x00, 0x02, 0x01, 0x02, 0x7F])) = some (0xCAFEBABE, 0xBEDE, 20, 22, 1) := by decide

/-- DV-24 (the preamble is cut) and DV-22 (ELEN counts bytes). -/
theorem test_v2x_boundary :
    after State.lastDecodeErr (exec (.decV2X false 2) (holding (0x92 :: 0x00 :: z10 ++ [0, 0, 0, 1, 0, 0, 0, 2, 0xBE, 0xDE, 0]))) =
      some .bufferTooShort ∧
    after (fun t => (t.pkt.extensionHeaderLength, t.pkt.payloadOffset, t.pkt.payloadLength))
      (exec (.decV2X false 0) (holding (0x90 :: 0x00 :: z10 ++ [0, 1, 0, 1, 0xAA, 0xBB, 0xCC, 0xDD]))) = some (1, 17, 3) := by
  decide

/-- DV-06 with LV-07's bookkeeping. -/
theorem test_v0 :
    after (fun t => (t.status, t.rxDropCount, t.loop, t.pktValid)) (exec (.decV0 0) (holding (0x00 :: 0x00 :: z10 ++ [0xFF]))) =
      some (0x0002003A, 1, .check, false) := by decide

/-- DV-07. -/
theorem test_v1 : after State.lastDecodeErr (exec (.decV1 0) (holding (0x40 :: 0x00 :: z10 ++ [0xFF]))) = some .unsupportedVersion := by
  decide

/-- DV-09. -/
theorem test_v3 : after State.lastDecodeErr (exec (.decV3 63) (holding (List.replicate 13 0xFF))) = some .unsupportedVersion := by
  decide

/-- R284: a form runs only in Process. -/
theorem test_form_outside_process : faultOf (exec (.decV2 false 0) (running .wait)) = some .stepNotEnabled := by decide

/-! ## The commands -/

/-- SV-01 and the BIND_REQ of R235 line 7. -/
theorem test_start :
    after (fun t => (t.status, t.act, t.pend, t.net.request)) (exec (.cmdStart 0) (stopped (config 0x15))) =
      some (0x00000005, config 0x15, config 0x15, some ⟨group, 0, 5004⟩) := by decide

/-- SV-02, SV-03, SV-05, SV-05b, SV-05c, SV-05d. -/
theorem test_start_checks :
    [stopped SessionConfig.reset, stopped (config 0x25), stopped (config 0x17), stopped (config 0x1D),
        stopped { config 0x25 with group := 0 }, stopped (config 0x27)].map (fun s => after State.status (exec (.cmdStart 0) s)) =
      [some 0x1000, some 0x1100, some 0x1000, some 0x1000, some 0x1000, some 0x1100] := by decide

/-- SV-17, SV-06 and SV-10: SESSION_ERR is sticky. -/
theorem test_stop :
    after (fun t => (t.status, t.restart)) (exec (.cmdStop 0) (running .wait)) = some (0x0000001F, false) ∧
    after State.status (exec (.cmdStop 0) { stopped (config 0x15) with sessionErr := .bindFailed }) = some 0x00001200 := by decide

/-- SV-18. -/
theorem test_reconfigure_running :
    after (fun t => (t.status, t.restart, t.pend, t.act))
      (exec (.cmdReconfigure 0) { running .check with cfg := ⟨0xEF040506, 0, Stream.ofWord 0x04⟩ }) =
      some (0x0000001F, true, ⟨0xEF040506, 0, Stream.ofWord 0x04⟩, config 0x15) := by decide

/-- The example of R242. -/
theorem test_reconfigure_stopped : after State.status (exec (.cmdReconfigure 0) State.reset) = some 0x00001000 := by decide

/-- SV-16. -/
theorem test_nop : after id (exec (.cmdNop 0) (running .check)) = some (running .check) := by decide

/-- SV-08. -/
theorem test_rsvd :
    after id (exec (.cmdRsvdLow 4 0) State.reset) = some State.reset ∧
      after id (exec (.cmdRsvdHigh 15 0) State.reset) = some State.reset := by decide

/-- SV-11 and SV-15. -/
theorem test_start_ignored :
    after State.status (exec (.cmdStart 0) starting) = some 0x00000005 ∧
      after State.status (exec (.cmdStart 0) (running .check)) = some 0x0000003A := by decide

/-! ## The other steps -/

/-- SV-12, SV-13, SV-14. -/
theorem test_bind :
    [BindVerdict.ok, .bindFailed, .socketAllocFailed].map
        (fun v => after (fun t => (t.status, t.loop)) (step (scheduled [.bindResp v] starting))) =
      [some (0x3A, .check), some (0x1200, .idle), some (0x1300, .idle)] := by decide

/-- LV-01 and LV-02. -/
theorem test_check :
    after State.loop (step (scheduled [.check] (running .check))) = some .wait ∧
      after State.loop (step (scheduled [.check] (stopping .check))) = some .idle := by decide

/-- LV-04, and LV-14's order. -/
theorem test_ingress :
    after (fun t => (t.loop, t.bufLen, t.pktBuf.read 12, t.net.queue))
      (step (scheduled [.rxDatagram] { running .wait with net := { (running .wait).net with queue := [datagram, [1]] } })) =
      some (.process, 14, some 0xAA, [[1]]) := by decide

/-- LV-08. -/
theorem test_ingress_too_long :
    after (fun t => (t.loop, t.lastDecodeErr, t.rxDropCount, t.bufLen))
      (step (scheduled [.rxDatagram]
        { running .wait with
          params := { Params.default with maxDatagram := 16 }
          net := { (running .wait).net with queue := [List.replicate 17 0x80] } })) =
      some (.check, .datagramTooLong, 1, 0) := by decide

/-- LV-12: the drop counter wraps. -/
theorem test_drop_wraps :
    after State.rxDropCount (step (scheduled [.process] { holding [0x80] with rxDropCount := 0xFFFFFFFF })) = some 0 := by decide

/-- LV-06, LV-10 and LV-11. -/
theorem test_down_answers :
    after (fun t => (t.loop, t.pktValid, t.offer)) (step (scheduled [.sinkAck] dispatching)) = some (.check, false, none) ∧
    after (fun t => (t.status, t.loop)) (step (scheduled [.convFatal] dispatching)) = some (0x0000111F, .check) ∧
    after State.restart (step (scheduled [.convFatal] { dispatching with session := .stopping, run := false, restart := true })) =
      some false := by decide

/-- Down reads the payload AA BB of R152's example and nothing past it (R55, R82). -/
theorem test_down_reads :
    after State.downRead (step (scheduled [.downRead .payload 1] dispatching)) = some (some 0xBB) ∧
      faultOf (step (scheduled [.downRead .payload 2] dispatching)) = some .stepNotEnabled := by decide

/-- SV-22, SV-23 and SV-24. -/
theorem test_complete :
    after (fun t => (t.status, t.act, t.net.request, t.net.binding))
        (step (scheduled [.complete] { stopping .idle with restart := true, pend := ⟨0xEF040506, 0, Stream.ofWord 0x04⟩ })) =
      some (0x00000005, ⟨0xEF040506, 0, Stream.ofWord 0x04⟩, some ⟨0xEF040506, 0, 5004⟩, none) ∧
    after State.status (step (scheduled [.complete] (stopping .idle))) = some 0 ∧
    after State.status (step (scheduled [.complete] { stopping .idle with restart := true, pend := SessionConfig.reset })) =
      some 0x1000 := by decide

/-- RV-02. -/
theorem test_reset :
    after (fun t => (t.status, t.offer, t.net, t.bufLen)) (step (scheduled [.reset] dispatching)) =
      some (0, none, ⟨none, none, []⟩, 0) := by decide

/-- HV-03 and HV-04. -/
theorem test_host_writes :
    after (fun t => t.readOffset 0x10) (step (access (.write 0xFFFFFFFF) 0x10 4 State.reset)) = some 0x3F ∧
      after (fun t => t.readOffset 0x14) (step (access (.write 0x12345678) 0x14 4 State.reset)) = some 0 := by decide

/-- HV-01 and HV-05: CFG_STREAM, and an unmapped offset. -/
theorem test_host_reads :
    after State.hostRead (step (access .read 0x10 4 State.reset)) = some (some 0x15) ∧
      after State.hostRead (step (access .read 0xFC 4 State.reset)) = some (some 0) := by decide

/-- HV-09. -/
theorem test_host_stuck :
    faultOf (step (access (.write 0) 0x08 2 State.reset)) = some .accessNotAdmitted ∧
      faultOf (step (access .read 0x02 4 State.reset)) = some .accessNotAdmitted := by decide

/-! ## The reference functions -/

/-- q0 of the vectors. -/
def q0 : AbstractPacket where
  version := 2
  padding := false
  extension := false
  csrcCount := 0
  marker := false
  payloadType := 96
  sequenceNumber := 1
  timestamp := 0x64
  ssrc := 0x12345678
  csrc := []
  extensionHeaderId := 0
  extensionHeaderLength := 0
  ext := []
  payloadLength := 2
  payload := some [0xAA, 0xBB]

/-- EV-01, EV-01b and EV-02. -/
theorem test_encode :
    encodePacket q0 14 = .ok datagram ∧ encodePacket q0 13 = .err .bufferTooSmall ∧
      encodePacket { q0 with payload := none } 0 = .err .nullPayload := by decide

/-- The packet of EV-05. -/
def q5 : AbstractPacket :=
  { q0 with
    padding := true
    extension := true
    csrcCount := 2
    marker := true
    csrc := [0xCAFEBABE, 0x01020304]
    extensionHeaderId := 0xBEDE
    extensionHeaderLength := 3
    ext := [1, 2, 3]
    payloadLength := 0
    payload := some [] }

/-- EV-05. -/
theorem test_encode_extension :
    encodePacket q5 27 =
      .ok [0xB2, 0xE0, 0x00, 0x01, 0x00, 0x00, 0x00, 0x64, 0x12, 0x34, 0x56, 0x78, 0xCA, 0xFE, 0xBA, 0xBE, 0x01, 0x02, 0x03, 0x04,
        0xBE, 0xDE, 0x00, 0x03, 0x01, 0x02, 0x03] := by decide

/-! ## The invariant in the small states -/

theorem dispatching_inv : dispatching.Inv := by
  constructor <;> first | decide | exact ⟨rfl, rfl, by decide, rfl, rfl⟩

theorem starting_inv : starting.Inv := by
  constructor <;> first | decide | exact ⟨rfl, rfl, rfl, rfl, rfl⟩

theorem check_inv : (running .check).Inv := by
  constructor <;> first | decide | exact ⟨rfl, rfl, by decide, rfl, rfl⟩

theorem wait_inv : (running .wait).Inv := by
  constructor <;> first | decide | exact ⟨rfl, rfl, by decide, rfl, rfl⟩

theorem stopping_check_inv : (stopping .check).Inv := by
  constructor <;> first | decide | exact ⟨rfl, rfl, rfl⟩

theorem stopping_idle_inv : (stopping .idle).Inv := by
  constructor <;> first | decide | exact ⟨rfl, rfl, rfl⟩

theorem holding_inv : (holding datagram).Inv := by
  constructor <;> first | decide | exact ⟨rfl, rfl, by decide, rfl, rfl⟩

theorem holding_short_inv : (holding [0x80]).Inv := by
  constructor <;> first | decide | exact ⟨rfl, rfl, by decide, rfl, rfl⟩

/-- Running in Wait with datagrams queued, and a buffer of 16 bytes. -/
def queued (q : List (List Byte)) : State :=
  { running .wait with
    params := { Params.default with maxDatagram := 16 }
    net := { (running .wait).net with queue := q } }

/-- A datagram of the capacity, and one of a byte more. -/
def fits : List Byte := List.replicate 16 0x80

def tooLong : List Byte := List.replicate 17 0x80

theorem queued_fits_inv : (queued [fits]).Inv := by
  constructor <;> first | decide | exact ⟨rfl, rfl, by decide, rfl, rfl⟩

theorem queued_tooLong_inv : (queued [tooLong]).Inv := by
  constructor <;> first | decide | exact ⟨rfl, rfl, by decide, rfl, rfl⟩

/-- Stopping in Wait with two datagrams queued. -/
def draining : State := { queued [datagram, datagram] with session := .stopping, run := false }

theorem draining_inv : draining.Inv := by
  constructor <;> first | decide | exact ⟨rfl, rfl, rfl⟩

/-- The schedule is no part of the invariant. -/
theorem scheduled_inv {s : State} (moves : List Move) (h : s.Inv) : (scheduled moves s).Inv := by
  obtain ⟨a, b, c, d, e, f, g, h, i, j, k, l, m, n, o, p, q⟩ := h
  exact ⟨a, b, c, d, e, f, g, h, i, j, k, l, m, n, o, p, q⟩

/-- The Host's accesses are no part of the invariant. -/
theorem access_inv {s : State} (k : AccessKind) (a n : Nat) (h : s.Inv) : (access k a n s).Inv := by
  obtain ⟨a, b, c, d, e, f, g, h, i, j, k, l, m, n, o, p, q⟩ := h
  exact ⟨a, b, c, d, e, f, g, h, i, j, k, l, m, n, o, p, q⟩

/-- A computed field shows the next state. -/
theorem next_of_after {α : Type} {f : State → α} {o : Host.Outcome State Fault Refusal} {v : α} (h : after f o = some v) :
    ∃ t, o = .next t ∧ f t = v := by
  cases o with
  | next t => exact ⟨t, rfl, Option.some.inj h⟩
  | fault r => cases h
  | refused r => cases h

/-! ## Witnesses: states and operands that meet the hypotheses of each statement -/

theorem witness_DecodeOfEncodeIsTheInstruction :
    (Instr.cmdRsvdLow 4 0xFFFFFFF).wf = true ∧ (Instr.cmdRsvdLow 7 0).wf = true ∧ (Instr.cmdRsvdHigh 8 0).wf = true ∧
      (Instr.cmdRsvdHigh 15 0).wf = true ∧ (Instr.decV2 true 15).wf = true := by decide

theorem witness_ByteZeroSelectsThePacketForm :
    (List.replicate 11 0 : List Byte).length < 12 ∧ 12 ≤ (List.replicate 12 0 : List Byte).length ∧
      (0x80 : Byte) &&& 0xD0 = 0x80 ∧ (0xAF : Byte) &&& 0xD0 = 0x80 ∧ (0x90 : Byte) &&& 0xD0 = 0x90 ∧
      (0xBF : Byte) &&& 0xD0 = 0x90 ∧ (0x00 : Byte) &&& 0xC0 = 0x00 ∧ (0x3F : Byte) &&& 0xC0 = 0x00 ∧
      (0x40 : Byte) &&& 0xC0 = 0x40 ∧ (0x7F : Byte) &&& 0xC0 = 0x40 ∧ (0xC0 : Byte) &&& 0xC0 = 0xC0 ∧
      (0xFF : Byte) &&& 0xC0 = 0xC0 := by decide

theorem witness_OpcodeSelectsTheCommand :
    (0xFFFFFFF0 : Word) &&& 0xF = 0x0 ∧ (0x1 : Word) &&& 0xF = 0x1 ∧ (0x2 : Word) &&& 0xF = 0x2 ∧ (0x13 : Word) &&& 0xF = 0x3 ∧
      (0x4 : Word) &&& 0xC = 0x4 ∧ (0x7 : Word) &&& 0xC = 0x4 ∧ (0x8 : Word) &&& 0x8 = 0x8 ∧ (0xF : Word) &&& 0x8 = 0x8 := by
  decide

theorem witness_EveryWordHasExactlyOneRow : 0 < opcodeTable.length ∧ 10 < opcodeTable.length := by decide

theorem witness_CommandIgnoresBitsAboveOpcode :
    (0x1 : Word).extractLsb' 0 4 = (0xFFFFFFF1 : Word).extractLsb' 0 4 := by decide

theorem witness_StepRunsTheCommandWritten :
    (access (.write 1) 0 4 State.reset).params.wf ∧ (access (.write 1) 0 4 State.reset).schedule = .host :: [] ∧
      (access (.write 1) 0 4 State.reset).hostProgram = ⟨.write 1, (access (.write 1) 0 4 State.reset).params.regBase, 4⟩ :: [] ∧
      decode (.command 1) = .ok (.cmdStart 0) := by decide

theorem witness_StepRunsTheFormOfTheDatagram :
    (scheduled [.process] (holding datagram)).schedule = .process :: [] ∧
      (scheduled [.process] (holding datagram)).loop = .process ∧
      (scheduled [.process] (holding datagram)).pktBuf.window 0 (scheduled [.process] (holding datagram)).bufLen = some datagram ∧
      decode (.datagram datagram) = .ok (.decV2 false 0) := by decide

/-- Each move is scheduled alone in a state where it has a next state. -/
theorem witness_StepsHappenOnlyWhereEnabled :
    [access (.write 1) 0 4 State.reset, scheduled [.bindResp .ok] starting, scheduled [.netArrive [1]] (running .wait),
        scheduled [.netLose 0] (queued [fits]), scheduled [.check] (running .check), scheduled [.rxDatagram] (queued [fits]),
        scheduled [.rxTimeout] (running .wait), scheduled [.process] (holding datagram), scheduled [.sinkAck] dispatching,
        scheduled [.convFatal] dispatching, scheduled [.downRead .payload 1] dispatching,
        scheduled [.downRead .payload 9] (running .wait), scheduled [.complete] (stopping .idle), scheduled [.reset] dispatching].map
      (fun s => (s.schedule.length, after State.schedule (step s))) = List.replicate 14 (1, some []) := by decide

theorem witness_ShortDatagramIsTooShort :
    (scheduled [.process] (holding (0x80 :: 0x00 :: z10))).schedule = .process :: [] ∧
      (scheduled [.process] (holding (0x80 :: 0x00 :: z10))).loop = .process ∧
      (scheduled [.process] (holding (0x80 :: 0x00 :: z10))).bufLen = 12 := by decide

theorem witness_ProcessStepIsDecode :
    (scheduled [.process] (holding datagram)).schedule = .process :: [] ∧
      (scheduled [.process] (holding datagram)).loop = .process ∧ (scheduled [.process] (running .wait)).schedule = .process :: [] ∧
      (scheduled [.process] (running .wait)).loop ≠ .process := by decide

/-- DV-11 and DV-12: one byte short of 12 + 4·1, and exact. -/
theorem witness_DecV2FillsThePacket :
    (holding (0x81 :: 0x00 :: z10 ++ [1, 2, 3])).loop = .process ∧ 12 < (holding (0x81 :: 0x00 :: z10 ++ [1, 2, 3])).bufLen ∧
      (holding (0x81 :: 0x00 :: z10 ++ [1, 2, 3])).bufferFilled ∧
      (holding (0x81 :: 0x00 :: z10 ++ [1, 2, 3])).bufLen < 12 + 4 * (1 : BitVec 4).toNat ∧
      (holding (0x81 :: 0x00 :: z10 ++ [1, 2, 3, 4])).bufferFilled ∧
      12 + 4 * (1 : BitVec 4).toNat = (holding (0x81 :: 0x00 :: z10 ++ [1, 2, 3, 4])).bufLen := by decide

/-- DV-17 (15 bytes), DV-19 (ELEN = 4, 19 bytes) and DV-20 (20 bytes). -/
theorem witness_DecV2XFillsThePacket :
    (holding (0x90 :: 0x00 :: z10 ++ [0xBE, 0xDE, 0])).bufferFilled ∧
      (holding (0x90 :: 0x00 :: z10 ++ [0xBE, 0xDE, 0])).bufLen < 16 + 4 * (0 : BitVec 4).toNat ∧
      (holding (0x90 :: 0x00 :: z10 ++ [0x12, 0x34, 0, 4, 1, 2, 3])).bufferFilled ∧
      16 + 4 * (0 : BitVec 4).toNat ≤ (holding (0x90 :: 0x00 :: z10 ++ [0x12, 0x34, 0, 4, 1, 2, 3])).bufLen ∧
      (holding (0x90 :: 0x00 :: z10 ++ [0x12, 0x34, 0, 4, 1, 2, 3])).bufLen < 16 + 4 * (0 : BitVec 4).toNat + 4 ∧
      (holding (0x90 :: 0x00 :: z10 ++ [0x12, 0x34, 0, 4, 1, 2, 3, 4])).bufferFilled ∧
      16 + 4 * (0 : BitVec 4).toNat + 4 = (holding (0x90 :: 0x00 :: z10 ++ [0x12, 0x34, 0, 4, 1, 2, 3, 4])).bufLen := by decide

theorem witness_OtherVersionsAreDropped :
    (Instr.decV0 0 = .decV0 0 ∧ Instr.decV1 63 = .decV1 63 ∧ Instr.decV3 63 = .decV3 63) ∧
      (holding (List.replicate 13 0xFF)).loop = .process ∧ (holding (List.replicate 13 0xFF)).bufLen = 13 := by decide

/-- Both ends of a form, an accept and a drop; a form outside Process; a form on 12 bytes. -/
theorem witness_PacketFormsFrame :
    isForm (.decV2 false 0) = true ∧ (∃ t, exec (.decV2 false 0) (holding datagram) = .next t ∧ t.loop = .dispatch) ∧
      (∃ t, exec (.decV0 0) (holding datagram) = .next t ∧ t.loop = .check) ∧ (running .wait).loop ≠ .process ∧
      (holding (0x80 :: 0x00 :: z10)).loop = .process ∧ (holding (0x80 :: 0x00 :: z10)).bufLen = 12 :=
  ⟨rfl, next_of_after (by decide), next_of_after (by decide), by decide, rfl, by decide⟩

/-- X = 0 with CC = 1 at 15 and 16 bytes; X = 1 at 15 bytes, and with ELEN = 4 at 19 and 20 bytes. -/
theorem witness_DecodeSucceedsWhenThePartsFit :
    (∀ a < 15, ((memoryOf (0x81 :: 0x00 :: z10 ++ [1, 2, 3])).read a).isSome) ∧
      (memoryOf (0x81 :: 0x00 :: z10 ++ [1, 2, 3])).read 0 = some 0x81 ∧ (0x81 : Byte).extractLsb' 6 2 = 2#2 ∧
      (0x81 : Byte).getLsbD 4 = false ∧ 15 < 12 + 4 * ((0x81 : Byte).extractLsb' 0 4).toNat ∧
      12 + 4 * ((0x81 : Byte).extractLsb' 0 4).toNat = 16 ∧ (0x90 : Byte).extractLsb' 6 2 = 2#2 ∧ (0x90 : Byte).getLsbD 4 = true ∧
      (∀ a < 20, ((memoryOf (0x90 :: 0x00 :: z10 ++ [0x12, 0x34, 0, 4, 1, 2, 3, 4])).read a).isSome) ∧
      15 < 16 + 4 * ((0x90 : Byte).extractLsb' 0 4).toNat ∧ 16 + 4 * ((0x90 : Byte).extractLsb' 0 4).toNat ≤ 19 ∧
      19 < 12 + 4 * ((0x90 : Byte).extractLsb' 0 4).toNat + (4 + 4) ∧
      12 + 4 * ((0x90 : Byte).extractLsb' 0 4).toNat + (4 + 4) = 20 := by decide

theorem witness_DecodeNeverReadsOutOfBounds : ∀ x < 14, ((memoryOf datagram).read x).isSome := by decide

/-- PKTBUF with and without an old byte at index 14. -/
theorem witness_DecodeDependsOnTheDatagramAlone :
    (∀ a < 14, (memoryOf datagram).read a = (memoryOf (datagram ++ [7])).read a) ∧ memoryOf datagram ≠ memoryOf (datagram ++ [7]) := by
  decide

/-- What a decode gives, read through a function of the packet. -/
def decodedAs {α : Type} (f : Packet → α) : DecodeResult → Option α
  | .ok p => some (f p)
  | .error _ => none

theorem ok_of_decodedAs {α : Type} {f : Packet → α} {r : DecodeResult} {v : α} (h : decodedAs f r = some v) :
    ∃ p, r = .ok p ∧ f p = v := by
  cases r with
  | ok p => exact ⟨p, rfl, Option.some.inj h⟩
  | error e => cases h

theorem witness_DecodedPacketHasTheDatagramsSize :
    ∃ p, decodePacket (memoryOf datagram) 14 0 = .ok p ∧ abstractPacket (memoryOf datagram) p = some q0 :=
  ok_of_decodedAs (by decide)

/-- Each width at the top of the datagram: its last byte, its last two and its last four; and a read of four that passes L. -/
theorem witness_MemReadIsBigEndianAndBounded :
    (memoryOf datagram).read 13 = some 0xBB ∧ 13 + 1 = datagram.length ∧ (memoryOf datagram).read (13 + 1) = none ∧
      (memoryOf datagram).read 12 = some 0xAA ∧ (memoryOf datagram).read (12 + 1) = some 0xBB ∧ 12 + 2 = datagram.length ∧
      (memoryOf datagram).read 10 = some 0x56 ∧ (memoryOf datagram).read (10 + 1) = some 0x78 ∧
      (memoryOf datagram).read (10 + 2) = some 0xAA ∧ (memoryOf datagram).read (10 + 3) = some 0xBB ∧ 10 + 4 = datagram.length ∧
      0 < 4 ∧ datagram.length < 11 + 4 := by decide

theorem witness_EncodeHasByteCountBytes :
    q0.encodable ∧ byteCount q0 = 14 ∧ q0.payload ≠ none ∧ 13 < byteCount q0 ∧ AbstractPacket.encodable { q0 with payload := none } ∧
      0 < q0.payloadLength ∧ ¬ AbstractPacket.encodable { q0 with csrcCount := 1 } := by decide

/-- q0, and the smallest packet R205 covers. -/
theorem witness_DecodeOfEncodedPacketIsThePacket :
    q0.valid ∧ 12 < byteCount q0 ∧ byteCount q0 ≤ 14 ∧
      AbstractPacket.valid { q0 with payloadLength := 1, payload := some [0xAA] } ∧
      byteCount { q0 with payloadLength := 1, payload := some [0xAA] } = 13 := by
  refine ⟨⟨?_, ?_, ?_, ⟨_, rfl, rfl⟩, ?_⟩, ?_, ?_, ⟨?_, ?_, ?_, ⟨_, rfl, rfl⟩, ?_⟩, ?_⟩ <;> decide

theorem witness_EncodeOfDecodedPacketIsTheDatagram :
    ∃ p, decodePacket (memoryOf datagram) datagram.length 0 = .ok p ∧ p.payloadLength = 2 :=
  ok_of_decodedAs (by decide)

theorem witness_LifecycleErrorsHaveNoEffect :
    (running .check).session = .running ∧ State.reset.session = .stopped ∧ isForm (.cmdStart 0) = false ∧ starting.busy = true ∧
      (stopping .check).busy = true := by decide

theorem witness_StartInStopped :
    (stopped SessionConfig.reset).session = .stopped ∧ (stopped SessionConfig.reset).cfg.group = 0 ∧
      (stopped (config 0x25)).cfg.group ≠ 0 ∧ (stopped (config 0x25)).cfg.stream.format = 2 ∧
      (stopped (config 0x35)).cfg.stream.format = 3 ∧ (stopped (config 0x17)).cfg.stream.format = 1 ∧
      (stopped (config 0x17)).cfg.stream.rate = 3 ∧ (stopped (config 0x0D)).cfg.stream.format = 0 ∧
      (stopped (config 0x0D)).cfg.stream.layout = 3 ∧ (stopped (config 0x1A)).cfg.stream.format = 1 ∧
      (stopped (config 0x1A)).cfg.stream.rate ≠ 3 ∧ (stopped (config 0x1A)).cfg.stream.layout ≠ 3 := by decide

theorem witness_StopAndReconfigureInRunning : (running .dispatch).session = .running := by decide

theorem witness_CommandsFrame :
    isForm (.cmdStop 0) = false ∧ isForm (.cmdRsvdHigh 15 0) = false ∧
      (∀ ign, Instr.cmdStop 0 ≠ .cmdStart ign ∧ Instr.cmdStop 0 ≠ .cmdReconfigure ign) :=
  ⟨rfl, rfl, fun _ => ⟨nofun, nofun⟩⟩

theorem witness_BindAnswerEndsStarting :
    starting.session = .starting ∧ starting.net.request = some ⟨group, 0, 5004⟩ ∧
      (scheduled [.bindResp .bindFailed] starting).schedule = .bindResp .bindFailed :: [] := by decide

theorem witness_StopCompletion :
    (stopping .idle).session = .stopping ∧ (stopping .idle).loop = .idle ∧ (stopping .idle).restart = false ∧
      (stopping .idle).pend.group ≠ 0 ∧ (stopping .idle).pend.stream.format = 1 ∧ (stopping .idle).pend.stream.rate ≠ 3 ∧
      (stopping .idle).pend.stream.layout ≠ 3 ∧ { stopping .idle with restart := true }.restart = true ∧
      SessionConfig.reset.group = 0 ∧ (config 0x25).stream.format = 2 ∧ (config 0x17).stream.rate = 3 := by decide

theorem witness_CheckAndTimeoutMoveTheLoop :
    (scheduled [.check] (running .check)).schedule = .check :: [] ∧ (running .check).loop = .check ∧ (running .check).run = true ∧
      (stopping .check).loop = .check ∧ (stopping .check).run = false ∧
      (scheduled [.rxTimeout] (running .wait)).schedule = .rxTimeout :: [] ∧ (running .wait).loop = .wait := by decide

/-- A datagram of the capacity, and one of a byte more (LV-08, LV-09). -/
theorem witness_IngressTakesTheHeadDatagram :
    (queued [tooLong]).loop = .wait ∧ (queued [tooLong]).net.queue = tooLong :: [] ∧
      (queued [tooLong]).params.maxDatagram + 1 = tooLong.length ∧ (queued [fits]).net.queue = fits :: [] ∧
      fits.length = (queued [fits]).params.maxDatagram ∧
      (scheduled [.rxDatagram] (queued [fits])).schedule = .rxDatagram :: [] := by decide

theorem witness_AckEndsTheDispatch :
    (scheduled [.sinkAck] dispatching).schedule = .sinkAck :: [] ∧ (scheduled [.sinkAck] dispatching).loop = .dispatch := by decide

theorem witness_FatalReportStopsTheSession :
    (scheduled [.convFatal] dispatching).schedule = .convFatal :: [] ∧ dispatching.loop = .dispatch ∧
      dispatching.session = .running ∧ (stopping .dispatch).loop = .dispatch ∧ (stopping .dispatch).session ≠ .running := by decide

theorem witness_FatalAndStopCommute :
    dispatching.params.wf ∧ dispatching.session = .running ∧ dispatching.loop = .dispatch ∧
      (access (.write 2) 0 4 dispatching).hostProgram = ⟨.write 2, dispatching.params.regBase, 4⟩ :: [] ∧ (2 : Word) &&& 0xF = 2 ∧
      (0xFFFFFFF3 : Word) &&& 0xF = 3 := by decide

theorem witness_ResetStep : (scheduled [.reset] dispatching).schedule = .reset :: [] := by decide

/-- CMD, RX_DROP_COUNT, the first unmapped offset and the last word of the window. -/
theorem witness_HostReadsHaveNoSideEffect :
    [0x00, 0x04, 0x08, 0x0C, 0x10, 0x14, 0x18, 0x1C, 0x20, 0x24, 0x28, 0xFC].all (fun off =>
      decide (State.reset.params.wf ∧ off % 4 = 0 ∧ off + 4 ≤ State.reset.params.windowBytes ∧
        (access .read off 4 State.reset).hostProgram = ⟨.read, State.reset.params.regBase + off, 4⟩ :: [])) = true := by decide

theorem witness_HostWritesToConfigRegisters :
    [0x04, 0x08, 0x0C, 0x10, 0x14, 0x24, 0x28, 0xFC].all (fun off =>
      decide (State.reset.params.wf ∧ off % 4 = 0 ∧ off + 4 ≤ State.reset.params.windowBytes ∧ off ≠ 0 ∧
        (access (.write 0xFFFFFFFF) off 4 State.reset).hostProgram =
          ⟨.write 0xFFFFFFFF, State.reset.params.regBase + off, 4⟩ :: [])) = true := by decide

/-- The last word of the window, a half word, and an odd place. -/
theorem witness_OnlyAlignedWordAccessesHaveAStep :
    State.reset.params.wf ∧ (access .read 0xFC 4 State.reset).schedule = .host :: [] ∧ 0xFC % 4 = 0 ∧
      State.reset.params.regBase ≤ 0xFC ∧ 0xFC + 4 = State.reset.params.regBase + State.reset.params.windowBytes ∧
      (⟨.read, 0x08, 2⟩ : HostAccess).bytes ≠ 4 ∧ (⟨.read, 0x02, 4⟩ : HostAccess).addr % 4 ≠ 0 := by decide

theorem witness_EveryStepKeepsTheInvariant :
    (scheduled [.convFatal] dispatching).Inv ∧ ∃ t, step (scheduled [.convFatal] dispatching) = .next t ∧ t.session = .stopping :=
  ⟨scheduled_inv _ dispatching_inv, next_of_after (by decide)⟩

theorem witness_NoStepReadsOutsideTheDatagram : (scheduled [.process] (holding datagram)).Inv := scheduled_inv _ holding_inv

/-- One step along each edge of R230, and the restart of R241. -/
theorem witness_SessionMovesAlongItsEdges :
    (∃ t, step (access (.write 1) 0 4 (stopped (config 0x15))) = .next t ∧ t.session = .starting) ∧
      (∃ t, step (scheduled [.bindResp .ok] starting) = .next t ∧ t.session = .running) ∧
      (∃ t, step (scheduled [.bindResp .bindFailed] starting) = .next t ∧ t.session = .stopped) ∧
      (∃ t, step (access (.write 2) 0 4 (running .wait)) = .next t ∧ t.session = .stopping) ∧
      (∃ t, step (scheduled [.convFatal] dispatching) = .next t ∧ t.session = .stopping) ∧
      (∃ t, step (scheduled [.complete] (stopping .idle)) = .next t ∧ t.session = .stopped) ∧
      ∃ t, step (scheduled [.complete] { stopping .idle with restart := true }) = .next t ∧ t.session = .starting :=
  ⟨next_of_after (by decide), next_of_after (by decide), next_of_after (by decide), next_of_after (by decide),
    next_of_after (by decide), next_of_after (by decide), next_of_after (by decide)⟩

/-- One step along each edge of R280. -/
theorem witness_LoopMovesAlongItsEdges :
    (starting.Inv ∧ (running .check).Inv ∧ (stopping .check).Inv ∧ (queued [fits]).Inv ∧ (queued [tooLong]).Inv ∧ (running .wait).Inv ∧
        (holding datagram).Inv ∧ (holding [0x80]).Inv ∧ dispatching.Inv) ∧
      [scheduled [.bindResp .ok] starting, scheduled [.check] (running .check), scheduled [.check] (stopping .check),
          scheduled [.rxDatagram] (queued [fits]), scheduled [.rxDatagram] (queued [tooLong]), scheduled [.rxTimeout] (running .wait),
          scheduled [.process] (holding datagram), scheduled [.process] (holding [0x80]), scheduled [.sinkAck] dispatching].map
        (fun s => (s.loop, after State.loop (step s))) =
      [(.idle, some .check), (.check, some .wait), (.check, some .idle), (.wait, some .process), (.wait, some .check),
        (.wait, some .check), (.process, some .dispatch), (.process, some .check), (.dispatch, some .check)] :=
  ⟨⟨starting_inv, check_inv, stopping_check_inv, queued_fits_inv, queued_tooLong_inv, wait_inv, holding_inv, holding_short_inv,
    dispatching_inv⟩, by decide⟩

theorem witness_DatapathHasOneOwner :
    (∃ t, step (access (.write 2) 0 4 dispatching) = .next t ∧ t.session = .stopping) ∧
      ∃ t, step (scheduled [.rxDatagram] (queued [fits])) = .next t ∧ t.loop = .process :=
  ⟨next_of_after (by decide), next_of_after (by decide)⟩

/-- A decode that is Ok, one that fails, an over-long datagram, and a step that is none of these. -/
theorem witness_CountersCountDecodesAndDrops :
    (∃ p, decodePacket (holding datagram).pktBuf (holding datagram).bufLen (holding datagram).draws = .ok p ∧ p.version = 2) ∧
      (∃ t, step (scheduled [.process] (holding datagram)) = .next t ∧ t.rxOkCount = 1) ∧
      decodePacket (holding [0x80]).pktBuf (holding [0x80]).bufLen (holding [0x80]).draws = .error (.raise .tooShort) ∧
      (∃ t, step (scheduled [.process] (holding [0x80])) = .next t ∧ t.rxDropCount = 1) ∧
      (∃ t, step (scheduled [.rxDatagram] (queued [tooLong])) = .next t ∧ t.rxDropCount = 1) ∧
      ∃ t, step (scheduled [.rxDatagram] (queued [fits])) = .next t ∧ t.rxDropCount = 0 :=
  ⟨ok_of_decodedAs (by decide), next_of_after (by decide), rfl, next_of_after (by decide), next_of_after (by decide),
    next_of_after (by decide)⟩

/-- START changes ACT_* and PEND_*; a write to CFG_GROUP changes CFG_* alone. -/
theorem witness_ConfigurationIsLatched :
    (∃ t, step (access (.write 1) 0 4 (stopped (config 0x15))) = .next t ∧
        (t.act, t.pend) = (config 0x15, config 0x15)) ∧
      (stopped (config 0x15)).act ≠ config 0x15 ∧
      ∃ t, step (access (.write 7) 8 4 (running .wait)) = .next t ∧ t.cfg.group = 7 :=
  ⟨next_of_after (f := fun t => (t.act, t.pend)) (by decide), by decide, next_of_after (f := fun t => t.cfg.group) (by decide)⟩

/-- A failed START and a failed RECONFIGURE, a restart with no group, a failed bind, a fatal report, and a reset that clears an error. -/
theorem witness_SessionErrorIsSticky :
    ([access (.write 1) 0 4 State.reset, access (.write 3) 0 4 State.reset,
        scheduled [.complete] { stopping .idle with restart := true, pend := SessionConfig.reset },
        scheduled [.bindResp .bindFailed] starting, scheduled [.bindResp .socketAllocFailed] starting,
        scheduled [.convFatal] dispatching, scheduled [.reset] { State.reset with sessionErr := .bindFailed }].map
      (fun s => (s.sessionErr, after State.sessionErr (step s))) =
      [(.none, some .configInvalid), (.none, some .configInvalid), (.none, some .configInvalid), (.none, some .bindFailed),
        (.none, some .socketAllocFailed), (.none, some .unsupportedSampleFormat), (.bindFailed, some .none)]) ∧
      (access (.write 1) 0 4 State.reset).hostWritesCommand 1 ∧ (access (.write 3) 0 4 State.reset).hostWritesCommand 3 :=
  ⟨by decide, ⟨1, [], rfl, by decide⟩, ⟨3, [], rfl, by decide⟩⟩

theorem witness_ProtocolErrorsNeverEndTheSession :
    (∃ t, step (scheduled [.process] (holding [0x80])) = .next t ∧ t.rxDropCount = 1) ∧ (holding [0x80]).rxDropCount ≠ 1 ∧
      (∃ t, step (scheduled [.rxDatagram] (queued [tooLong])) = .next t ∧ t.rxDropCount = 1) ∧
      (queued [tooLong]).rxDropCount ≠ 1 :=
  ⟨next_of_after (by decide), by decide, next_of_after (by decide), by decide⟩

theorem witness_OfferCarriesThePacket : dispatching.Inv ∧ dispatching.loop = .dispatch := ⟨dispatching_inv, rfl⟩

/-- A datagram arrives while one is dispatched. -/
theorem witness_DispatchedRecordIsStable :
    (scheduled [.netArrive [1]] dispatching).Inv ∧
      ∃ t, step (scheduled [.netArrive [1]] dispatching) = .next t ∧ t.loop = .dispatch :=
  ⟨scheduled_inv _ dispatching_inv, next_of_after (by decide)⟩

/-- The last byte of the payload, and the index past it. -/
theorem witness_DownReadsTheWindows :
    (scheduled [.downRead .payload 1] dispatching).Inv ∧
      dispatching.offer = some (dispatchRecord packet (config 0x15).stream) ∧
      1 < ((dispatchRecord packet (config 0x15).stream).place .payload).2 ∧
      ((dispatchRecord packet (config 0x15).stream).place .payload).2 ≤ 2 ∧
      ((dispatchRecord packet (config 0x15).stream).place .extension).2 = 0 :=
  ⟨scheduled_inv _ dispatching_inv, by decide, by decide, by decide, by decide⟩

/-- An arrival with room and with none, an ingress, a loss, a release, a reset, and a step that leaves the queue. -/
theorem witness_NetQueueIsALossyFifo :
    [scheduled [.netArrive [1]] (queued [[0]]),
        scheduled [.netArrive [1]] { queued [[0]] with params := { Params.default with netQueueDepth := 1 } },
        scheduled [.rxDatagram] (queued [[0], [1]]), scheduled [.netLose 1] (queued [[0], [1], [2]]),
        scheduled [.complete] { stopping .idle with net := ⟨none, none, [[0]]⟩ }, scheduled [.reset] (queued [[0]]),
        scheduled [.rxTimeout] (queued [[0]])].map (fun s => after (fun t => t.net.queue) (step s)) =
      [some [[0], [1]], some [[0]], some [[1]], some [[0], [2]], some [], some [], some [[0]]] := by decide

theorem witness_QuietWithoutASession :
    (scheduled [.bindResp .ok] starting).Inv ∧ starting.session = .starting ∧
      (∃ t, step (scheduled [.bindResp .ok] starting) = .next t ∧ t.session = .running) ∧ (stopped (config 0x15)).session = .stopped ∧
      (access .read 4 4 (stopped (config 0x15))).Inv ∧
      ∃ t, step (access .read 4 4 (stopped (config 0x15))) = .next t ∧ t.hostRead = some 0 :=
  ⟨scheduled_inv _ starting_inv, rfl, next_of_after (by decide), rfl, access_inv _ _ _ (by constructor <;> first | decide | exact ⟨rfl, rfl, rfl, rfl, rfl⟩),
    next_of_after (by decide)⟩

/-- Two datagrams wait in the queue; one is taken and dispatched before the loop exits, and the other is not. -/
theorem witness_AtMostOneDatagramAfterTheStop :
    (scheduled [.rxDatagram, .process, .sinkAck, .check] draining).Inv ∧ draining.session = .stopping ∧ draining.loop = .wait ∧
      Move.complete ∉ [Move.rxDatagram, .process, .sinkAck, .check] ∧ Move.reset ∉ [Move.rxDatagram, .process, .sinkAck, .check] ∧
      ∃ t, Sys2Proof.core.run 4 (scheduled [.rxDatagram, .process, .sinkAck, .check] draining) = .next t ∧ State.loop t = .idle :=
  ⟨scheduled_inv _ draining_inv, rfl, rfl, by decide, by decide, next_of_after (f := State.loop) (by decide)⟩

/-- A fair run after a stop in Wait: the Timer, Check, the completion, and then the Host reads STATUS for ever. -/
def stopMoves : Nat → Move
  | 0 => .rxTimeout
  | 1 => .check
  | 2 => .complete
  | _ + 3 => .host

def stopAccesses : Nat → List HostAccess
  | 0 => []
  | 1 => []
  | 2 => []
  | _ + 3 => [⟨.read, 0x04, 4⟩]

/-- Its states. -/
def stopStates : Nat → State
  | 0 => stopping .wait
  | 1 => stopping .check
  | 2 => stopping .idle
  | 3 => { starting with session := .stopped, net := ⟨none, none, []⟩ }
  | _ + 4 => { starting with session := .stopped, net := ⟨none, none, []⟩, hostRead := some 0 }

theorem stopStates_run : IsRun stopStates stopMoves stopAccesses
  | 0 => rfl
  | 1 => rfl
  | 2 => rfl
  | 3 => rfl
  | _ + 4 => show step ((stopStates 4).withInput (stopMoves 4) (stopAccesses 4)) = .next (stopStates 4) from rfl

/-- From index 3 on the Loop is Idle, so it stays for ever in no other phase. -/
theorem stopStates_fair {phase : Phase} (h : phase ≠ .idle) (answers : List Move) :
    FairInPhase phase answers stopStates stopMoves := by
  intro n hn
  exact absurd (hn (n + 4) (by omega)).symm h

theorem stopMoves_ne_reset : ∀ n, stopMoves n ≠ .reset
  | 0 => nofun
  | 1 => nofun
  | 2 => nofun
  | _ + 3 => nofun

theorem witness_AClearedRunIsSeenAtCheck :
    IsRun stopStates stopMoves stopAccesses ∧ (stopStates 0).Inv ∧ FairInWait stopStates stopMoves ∧
      (stopStates 0).loop = .wait ∧ LoopProceeds stopStates stopMoves ∧ DownAnswers stopStates stopMoves ∧
      (stopStates 0).run = false ∧ (stopStates 0).loop ≠ .idle ∧ (∀ m ≥ 0, stopMoves m ≠ .reset) ∧
      (stopMoves 1 = .check ∧ (stopStates 1).loop = .check ∧ (stopStates 2).loop = .idle) :=
  ⟨stopStates_run, by constructor <;> first | decide | exact ⟨rfl, rfl, rfl⟩, stopStates_fair (by decide) _, rfl,
    ⟨stopStates_fair (by decide) _, stopStates_fair (by decide) _⟩, stopStates_fair (by decide) _, rfl, nofun, fun m _ => stopMoves_ne_reset m,
    rfl, rfl, rfl⟩

theorem witness_AStopCanComplete : draining.Inv ∧ draining.session = .stopping := ⟨draining_inv, rfl⟩

end Sys2Proof.Tests
end

section
/-! Proofs. What a MemRead gives and when it is refused (R17, R80, R82). -/

namespace Sys2Proof.Machine

/-- The byte at the lower index of a MemRead is its most significant byte (R80). -/
theorem memRead_succ_of_read {m : Memory} {len a n low : Nat} {b : Byte} (hb : m.read a = some b) (ha : a < len)
    (hlow : memRead m len (a + 1) n = .ok low) : memRead m len a (n + 1) = .ok (b.toNat * 256 ^ n + low) := by
  have hbyte : byteAt m len a = .ok b := byteAt_eq_ok.2 ⟨ha, hb⟩
  simp only [memRead, hbyte, hlow, except_ok_bind]

/-- An 8-bit MemRead of a byte below L gives the byte. -/
theorem memRead_one {m : Memory} {len a : Nat} {b0 : Byte} (h0 : m.read a = some b0) (hlen : a + 1 ≤ len) :
    memRead m len a 1 = .ok b0.toNat := by
  simpa using memRead_succ_of_read (n := 0) (low := 0) h0 hlen rfl

/-- A 16-bit MemRead puts the byte at the lower index higher (R80). -/
theorem memRead_two {m : Memory} {len a : Nat} {b0 b1 : Byte} (h0 : m.read a = some b0)
    (h1 : m.read (a + 1) = some b1) (hlen : a + 2 ≤ len) :
    memRead m len a 2 = .ok (b0.toNat * 2 ^ 8 + b1.toNat) :=
  memRead_succ_of_read h0 (by omega) (memRead_one h1 (by omega))

/-- A 32-bit MemRead puts its first two bytes, in order, above the 16-bit MemRead of the last two (R80). -/
theorem memRead_four {m : Memory} {len a : Nat} {b0 b1 b2 b3 : Byte} (h0 : m.read a = some b0)
    (h1 : m.read (a + 1) = some b1) (h2 : m.read (a + 2) = some b2) (h3 : m.read (a + 3) = some b3)
    (hlen : a + 4 ≤ len) :
    memRead m len a 4 = .ok (b0.toNat * 2 ^ 24 + b1.toNat * 2 ^ 16 + b2.toNat * 2 ^ 8 + b3.toNat) := by
  have hlow := memRead_two h2 h3 (show a + 2 + 2 ≤ len by omega)
  have hread := memRead_succ_of_read h0 (by omega) (memRead_succ_of_read h1 (by omega) hlow)
  simpa [Nat.add_assoc] using hread

/-- A MemRead of at least one byte that succeeds ends at or below L (R82). -/
theorem memRead_le_len {m : Memory} {len a n v : Nat} (hn : 0 < n) (h : memRead m len a n = .ok v) : a + n ≤ len := by
  induction n generalizing a v with
  | zero => omega
  | succ n ih =>
    simp only [memRead, except_bind_eq_ok] at h
    obtain ⟨b, hb, low, hlow, -⟩ := h
    have hhead : a < len := (byteAt_eq_ok.1 hb).1
    rcases Nat.eq_zero_or_pos n with rfl | hpos
    · exact hhead
    · have htail : a + 1 + n ≤ len := ih hpos hlow
      omega

/-- A MemRead of at least one byte that would pass L is refused (R82). -/
theorem memRead_refused {m : Memory} {len a n : Nat} (hn : 0 < n) (h : len < a + n) :
    ∃ x, memRead m len a n = .error (.noByte x) := by
  cases hr : memRead m len a n with
  | ok v => exact absurd (memRead_le_len hn hr) (Nat.not_le.2 h)
  | error e =>
    obtain ⟨x, rfl, -⟩ := memRead_error hr
    exact ⟨x, rfl⟩

/-- Settles O22: the values from the head-byte rule once per byte, the refusal from the bound on a read that succeeds. -/
theorem memReadIsBigEndianAndBounded : Obligations.MemReadIsBigEndianAndBounded := by
  intro m len a
  refine ⟨?_, ?_, ?_, ?_⟩
  · exact fun _ => memRead_one
  · exact fun _ _ => memRead_two
  · exact fun _ _ _ _ => memRead_four
  · exact fun _ => memRead_refused

end Sys2Proof.Machine
end

section
/-! Proofs. The Process step is R284 with the one function DECODE of R151. -/

namespace Sys2Proof.Machine

/-- The decode of the form byte 0 selects is DECODE (R120, R151). -/
theorem exec_decodeForm {b : Byte} {s : State} (hb : byteAt s.pktBuf s.bufLen 0 = .ok b) (hlen : 12 < s.bufLen) :
    exec (decodeForm b) s = inProcess (decodePacket s.pktBuf s.bufLen s.draws) s := by
  have hlong : ¬ s.bufLen ≤ 12 := by omega
  have unsupported (hv : (byte0Version b).toNat ≠ 2) :
      inProcess (decodeUnsupported s.bufLen) s = inProcess (decodePacket s.pktBuf s.bufLen s.draws) s := by
    have hv : byte0Version b ≠ 2 := fun h => hv (congrArg BitVec.toNat h)
    simp only [decodeUnsupported, decodePacket, if_neg hlong, hb, except_ok_bind, if_pos hv]
  unfold decodeForm
  split
  next hv => exact unsupported (by omega)
  next hv => exact unsupported (by omega)
  next hv =>
    have hv : byte0Version b = 2 := BitVec.eq_of_toNat_eq hv
    split
    next hx => simp [exec, execDecV2X, decodeV2X, decodePacket, hlong, hb, hv, hx]
    next hx => simp [exec, execDecV2, decodeV2, decodePacket, hlong, hb, hv, hx]
  next hv => exact unsupported hv

/-- In Process the step is the result of DECODE on PKTBUF (R284). -/
theorem runAction_processStep {s : State} (h : s.loop = .process) :
    runAction (processStep s) = processResult (decodePacket s.pktBuf s.bufLen s.draws) s := by
  unfold processStep
  rw [if_pos h]
  split
  next hlen => simp [decodePacket, hlen, processResult]
  next hlen =>
    split
    next b hb =>
      rw [runAction_run, exec_decodeForm hb (by omega), inProcess, if_pos h]
    next e he =>
      have hstop : decodePacket s.pktBuf s.bufLen s.draws = .error e := by simp [decodePacket, hlen, he]
      rw [hstop, (byteAt_eq_error.1 he).1]
      rfl

/-- Process is DECODE's drop or its accept. -/
theorem processStep_decodes {s t : State} (h : runAction (processStep s) = .next t) :
    s.loop = .process ∧
      ((∃ c, decodePacket s.pktBuf s.bufLen s.draws = .error (.raise c) ∧ t = failDecode c s) ∨
        ∃ p, decodePacket s.pktBuf s.bufLen s.draws = .ok p ∧ t = acceptPacket p s) := by
  obtain ⟨hloop, -⟩ := processStep_cases h
  have hprocess : inProcess (decodePacket s.pktBuf s.bufLen s.draws) s = .next t := by
    rw [inProcess, if_pos hloop, ← runAction_processStep hloop, h]
  exact inProcess_eq_next hprocess

end Sys2Proof.Machine
end

section
/-! Proofs. What a StartSequence writes, and the effect of every move: one case for each way a step can end (R19, R327). -/

namespace Sys2Proof.Machine

/-! ## StartSequence -/

/-- StartSequence begins a session with PEND_*, or writes SESSION_ERR alone (R235). -/
theorem startSequence_cases (s : State) :
    startSequence s =
        { s with
          act := s.pend
          sessionErr := .none
          session := .starting
          net := { s.net with request := some (bindTriple s.pend) } } ∨
      ∃ c, (c = .configInvalid ∨ c = .unsupportedSampleFormat) ∧ startSequence s = { s with sessionErr := c } := by
  by_cases hlegal : s.pend.legal
  · exact .inl (startSequence_legal hlegal)
  · exact .inr (startSequence_illegal hlegal)

/-- The frame of StartSequence: it writes ACT_*, SESSION_ERR, STATE and the request, and nothing else (R235). -/
theorem startSequence_frame (s : State) :
    startSequence s =
      { s with
        act := (startSequence s).act
        sessionErr := (startSequence s).sessionErr
        session := (startSequence s).session
        net := { s.net with request := (startSequence s).net.request } } := by
  rcases startSequence_cases s with h | ⟨c, -, h⟩ <;> rw [h]

section
variable (s : State)

@[simp] theorem startSequence_params : (startSequence s).params = s.params := by rw [startSequence_frame]
@[simp] theorem startSequence_cfg : (startSequence s).cfg = s.cfg := by rw [startSequence_frame]
@[simp] theorem startSequence_pend : (startSequence s).pend = s.pend := by rw [startSequence_frame]
@[simp] theorem startSequence_rxOkCount : (startSequence s).rxOkCount = s.rxOkCount := by rw [startSequence_frame]
@[simp] theorem startSequence_rxDropCount : (startSequence s).rxDropCount = s.rxDropCount := by rw [startSequence_frame]
@[simp] theorem startSequence_queue : (startSequence s).net.queue = s.net.queue := by rw [startSequence_frame]
@[simp] theorem startSequence_schedule : (startSequence s).schedule = s.schedule := by rw [startSequence_frame]

end

/-- Where StartSequence writes ACT_*, it latches PEND_* and enters Starting (R235). -/
theorem startSequence_latches {s : State} (h : (startSequence s).act ≠ s.act) :
    (startSequence s).session = .starting ∧ (startSequence s).act = s.pend := by
  rcases startSequence_cases s with hs | ⟨c, -, hs⟩
  · rw [hs]
    exact ⟨rfl, rfl⟩
  · rw [hs] at h
    exact absurd rfl h

/-! ## The effect of a move -/

/-- What a move that has a step does to the state `s`: one constructor for each way the step can end. -/
inductive MoveEffect (s : State) : Move → State → Prop where
  /-- A read, a write outside CMD, or a command that does nothing: only what the Host reads and CFG_* may change. -/
  | hostLocal {a : HostAccess} {more : List HostAccess} (v : Option Word) (c : SessionConfig)
      (hp : s.hostProgram = a :: more) :
      MoveEffect s .host { s with hostProgram := more, hostRead := v, cfg := c }
  /-- START or RECONFIGURE in Stopped (R234, R242). -/
  | hostStart (more : List HostAccess) (hs : s.session = .stopped)
      (hw : s.hostWritesCommand 1 ∨ s.hostWritesCommand 3) :
      MoveEffect s .host (startSequence (latchConfig { s with hostProgram := more }))
  /-- STOP in Running (R239). -/
  | hostStop (more : List HostAccess) (hs : s.session = .running) (hw : s.hostWritesCommand 2) :
      MoveEffect s .host (beginStopping false { s with hostProgram := more })
  /-- RECONFIGURE in Running (R243). -/
  | hostReconfigure (more : List HostAccess) (hs : s.session = .running) (hw : s.hostWritesCommand 3) :
      MoveEffect s .host (beginStopping true (latchConfig { s with hostProgram := more }))
  /-- The bind is confirmed (R236). -/
  | bindOk {b : Binding} (hs : s.session = .starting) (hr : s.net.request = some b) :
      MoveEffect s (.bindResp .ok) (beginRunning b s)
  /-- The bind failed (R237). -/
  | bindFail {v : BindVerdict} {c : ErrCode} {b : Binding} (hs : s.session = .starting) (hr : s.net.request = some b)
      (hv : (v = .bindFailed ∧ c = .bindFailed) ∨ (v = .socketAllocFailed ∧ c = .socketAllocFailed)) :
      MoveEffect s (.bindResp v) (failBind c s)
  /-- A datagram joins the queue's end (R57). -/
  | arriveQueued {d : List Byte} (hb : s.net.binding ≠ none) (hroom : s.net.queue.length < s.params.netQueueDepth) :
      MoveEffect s (.netArrive d) { s with net := { s.net with queue := s.net.queue ++ [d] } }
  /-- A datagram meets a full queue and is lost (R291). -/
  | arriveLost {d : List Byte} (hb : s.net.binding ≠ none) (hfull : ¬ s.net.queue.length < s.params.netQueueDepth) :
      MoveEffect s (.netArrive d) s
  /-- Net loses a queued datagram (R291). -/
  | lose {k : Nat} (hk : k < s.net.queue.length) :
      MoveEffect s (.netLose k) { s with net := { s.net with queue := s.net.queue.eraseIdx k } }
  /-- Check (R281). -/
  | check (hl : s.loop = .check) : MoveEffect s .check { s with loop := if s.run then .wait else .idle }
  /-- Ingress of an over-long datagram (R282). -/
  | rxTooLong {d : List Byte} {q : List (List Byte)} (hl : s.loop = .wait) (hq : s.net.queue = d :: q)
      (hd : s.params.maxDatagram < d.length) :
      MoveEffect s .rxDatagram (dropDatagram .datagramTooLong { s with net := { s.net with queue := q } })
  /-- Ingress of a datagram PKTBUF can hold (R282). -/
  | rxIngest {d : List Byte} {q : List (List Byte)} (hl : s.loop = .wait) (hq : s.net.queue = d :: q)
      (hd : d.length ≤ s.params.maxDatagram) :
      MoveEffect s .rxDatagram (ingest d { s with net := { s.net with queue := q } })
  /-- RX_TIMEOUT (R283). -/
  | timeout (hl : s.loop = .wait) : MoveEffect s .rxTimeout { s with loop := .check }
  /-- Process with an error (R284). -/
  | processDrop {c : ErrCode} (hl : s.loop = .process)
      (hd : decodePacket s.pktBuf s.bufLen s.draws = .error (.raise c)) : MoveEffect s .process (failDecode c s)
  /-- Process with a packet (R284, R285). -/
  | processAccept {p : Packet} (hl : s.loop = .process) (hd : decodePacket s.pktBuf s.bufLen s.draws = .ok p) :
      MoveEffect s .process (acceptPacket p s)
  /-- SINK_ACK (R286). -/
  | sinkAck (hl : s.loop = .dispatch) : MoveEffect s .sinkAck (endDispatch s)
  /-- CONV_FATAL (R287). -/
  | convFatal (hl : s.loop = .dispatch) : MoveEffect s .convFatal (fatalReport s)
  /-- Down reads a byte of a window (R55, R372). -/
  | downRead {w : Window} {k : Nat} (b : Option Byte) (n : Nat) (hk : ∀ r, s.offer = some r → k < (r.place w).2) :
      MoveEffect s (.downRead w k) { s with downRead := b, draws := n }
  /-- Stop completion without a restart (R241). -/
  | completeStopped (hs : s.session = .stopping) (hl : s.loop = .idle) (hr : s.restart = false) :
      MoveEffect s .complete (releaseSession s)
  /-- Stop completion with a restart (R241). -/
  | completeRestarted (hs : s.session = .stopping) (hl : s.loop = .idle) (hr : s.restart = true) :
      MoveEffect s .complete (startSequence { releaseSession s with restart := false })
  /-- Reset (R360, R361). -/
  | reset : MoveEffect s .reset (resetBlock s)

/-- Every host access that has a step has one of the host's effects (R41, R89, R232). -/
theorem hostStep_effect {s t : State} (h : runAction (hostStep s) = .next t) : MoveEffect s .host t := by
  obtain ⟨a, more, hp, -, ⟨v, rfl⟩ | ⟨c, rfl⟩ | ⟨w, rfl, hexec⟩⟩ := hostStep_cases h
  · exact .hostLocal v s.cfg hp
  · exact .hostLocal s.hostRead c hp
  obtain ⟨hstart, hstop, hreconfigure⟩ :
      (∀ g, decodeCommand w = .cmdStart g → s.hostWritesCommand 1) ∧
        (∀ g, decodeCommand w = .cmdStop g → s.hostWritesCommand 2) ∧
        (∀ g, decodeCommand w = .cmdReconfigure g → s.hostWritesCommand 3) :=
    ⟨fun _ hi => ⟨w, more, hp, opcode_of_decodeCommand.1 hi⟩, fun _ hi => ⟨w, more, hp, opcode_of_decodeCommand.2.1 hi⟩,
      fun _ hi => ⟨w, more, hp, opcode_of_decodeCommand.2.2 hi⟩⟩
  rcases exec_command_cases (isForm_decodeCommand w) { s with hostProgram := more } with
    he | ⟨hs, ⟨g, hi⟩, he⟩ | ⟨hs, ⟨g, hi⟩, he⟩ | ⟨hs, ⟨g, hi⟩, he⟩ <;>
    rw [he] at hexec <;> obtain rfl := Host.Outcome.next.inj hexec
  · exact .hostLocal s.hostRead s.cfg hp
  · exact .hostStart more hs (hi.imp (hstart g) (hreconfigure g))
  · exact .hostStop more hs (hstop g hi)
  · exact .hostReconfigure more hs (hreconfigure g hi)

/-- Every move that has a step has one of the effects listed. -/
theorem moveAction_effect {s t : State} {mv : Move} (h : runAction (moveAction mv s) = .next t) :
    MoveEffect s mv t := by
  cases mv with
  | host => exact hostStep_effect h
  | bindResp v =>
    obtain ⟨b, hs, hr, ⟨rfl, rfl⟩ | ⟨rfl, rfl⟩ | ⟨rfl, rfl⟩⟩ := bindRespStep_cases h
    · exact .bindOk hs hr
    · exact .bindFail hs hr (.inl ⟨rfl, rfl⟩)
    · exact .bindFail hs hr (.inr ⟨rfl, rfl⟩)
  | netArrive d =>
    obtain ⟨hb, ⟨hroom, rfl⟩ | ⟨hfull, rfl⟩⟩ := netArriveStep_cases h
    · exact .arriveQueued hb hroom
    · exact .arriveLost hb hfull
  | netLose k =>
    obtain ⟨hk, rfl⟩ := netLoseStep_cases h
    exact .lose hk
  | check =>
    obtain ⟨hl, rfl⟩ := checkStep_cases h
    exact .check hl
  | rxDatagram =>
    obtain ⟨d, q, hl, hq, ⟨hd, rfl⟩ | ⟨hd, rfl⟩⟩ := rxDatagramStep_cases h
    · exact .rxTooLong hl hq hd
    · exact .rxIngest hl hq hd
  | rxTimeout =>
    obtain ⟨hl, rfl⟩ := rxTimeoutStep_cases h
    exact .timeout hl
  | process =>
    obtain ⟨hl, ⟨c, hd, rfl⟩ | ⟨p, hd, rfl⟩⟩ := processStep_decodes h
    · exact .processDrop hl hd
    · exact .processAccept hl hd
  | sinkAck =>
    obtain ⟨hl, rfl⟩ := sinkAckStep_cases h
    exact .sinkAck hl
  | convFatal =>
    obtain ⟨hl, rfl⟩ := convFatalStep_cases h
    exact .convFatal hl
  | downRead w k =>
    obtain ⟨hk, b, n, rfl⟩ := downReadStep_cases h
    exact .downRead b n hk
  | complete =>
    obtain ⟨hs, hl, rfl⟩ := completeStep_cases h
    unfold completeStop
    split
    next hr => exact .completeRestarted hs hl hr
    next hr => exact .completeStopped hs hl (by simpa using hr)
  | reset =>
    obtain rfl := Host.Outcome.next.inj h
    exact .reset

/-- A step has the effect of its schedule's head on the state without that move. -/
theorem step_effect {s t : State} {mv : Move} {rest : List Move} (hs : s.schedule = mv :: rest)
    (h : step s = .next t) : MoveEffect { s with schedule := rest } mv t :=
  moveAction_effect ((step_of_schedule hs).symm.trans h)

end Sys2Proof.Machine
end

section
/-! Proofs. The effect of every move keeps the invariant. -/

namespace Sys2Proof.Machine

/-- What is no part of the invariant may be written freely. -/
theorem State.Inv.setUntracked {s : State} (h : s.Inv) (cfg pend : SessionConfig) (hostProgram : List HostAccess)
    (hostRead : Option Word) (downRead : Option Byte) (schedule : List Move) (draws : Nat) :
    State.Inv { s with
      cfg := cfg, pend := pend, hostProgram := hostProgram, hostRead := hostRead, downRead := downRead
      schedule := schedule, draws := draws } :=
  { h with }

/-! ## What the table of R231 says of a state -/

/-- Outside a session's loop nothing runs and nothing is bound. -/
theorem State.Inv.quiet {s : State} (h : s.Inv) (hs : s.session = .stopped ∨ s.session = .starting) :
    s.run = false ∧ s.restart = false ∧ s.loop = .idle ∧ s.sockBound = false ∧ s.perfHint = false := by
  have htable := h.session
  rcases hs with hs | hs <;> simpa [State.sessionTable, hs] using htable

/-- A loop that is not Idle belongs to a session in Running or Stopping, which is bound. -/
theorem State.Inv.bound_of_loop {s : State} (h : s.Inv) (hl : s.loop ≠ .idle) :
    (s.session = .running ∨ s.session = .stopping) ∧ s.sockBound = true ∧ s.perfHint = true := by
  have htable := h.session
  cases hs : s.session with
  | stopped => exact absurd (h.quiet (.inl hs)).2.2.1 hl
  | starting => exact absurd (h.quiet (.inr hs)).2.2.1 hl
  | running => simp_all [State.sessionTable]
  | stopping => simp_all [State.sessionTable]

/-- The table of R231 does not tell apart the phases other than Idle. -/
theorem State.sessionTable_of_loop {s t : State} (h : s.sessionTable) (hl : s.loop ≠ .idle) (hl' : t.loop ≠ .idle)
    (hsession : t.session = s.session) (hrun : t.run = s.run) (hrestart : t.restart = s.restart)
    (hbound : t.sockBound = s.sockBound) (hhint : t.perfHint = s.perfHint) : t.sessionTable := by
  cases hs : s.session <;> simp_all [State.sessionTable]

/-- Outside Dispatch no packet is valid and Down holds no record. -/
theorem State.Inv.noOffer {s : State} (h : s.Inv) (hl : s.loop ≠ .dispatch) : s.pktValid = false ∧ s.offer = none :=
  ⟨by simpa using mt h.valid.1 hl, h.offer.trans (if_neg hl)⟩

/-- Net holds a binding only for a bound socket. -/
theorem State.Inv.bound_of_binding {s : State} (h : s.Inv) (hb : s.net.binding ≠ none) : s.sockBound = true := by
  by_contra hsock
  exact hb (h.binding.trans (if_neg hsock))

/-! ## Updates that several moves share -/

/-- A move to a phase other than Dispatch, with no packet valid and no record offered. -/
theorem State.Inv.setLoop {s : State} (h : s.Inv) {l : Phase} {v : Bool} {o : Option DispatchRecord} (p : Packet) (c : Nat)
    (hl : l ≠ .dispatch) (hv : v = false) (ho : o = none) (htable : State.sessionTable { s with loop := l }) :
    State.Inv { s with loop := l, pktValid := v, offer := o, pkt := p, cur := c } :=
  { h with
    session := htable
    valid := by simp [hl, hv]
    offer := by simp [hl, ho]
    windows := fun hd => absurd hd hl }

/-- A move from one phase of the loop, other than Dispatch, to another. -/
theorem State.Inv.moveLoop {s : State} (h : s.Inv) {l : Phase} (hidle : s.loop ≠ .idle) (hdispatch : s.loop ≠ .dispatch)
    (hidle' : l ≠ .idle) (hdispatch' : l ≠ .dispatch) (p : Packet) (c : Nat) :
    State.Inv { s with loop := l, pkt := p, cur := c } :=
  h.setLoop p c hdispatch' (h.noOffer hdispatch).1 (h.noOffer hdispatch).2
    (State.sessionTable_of_loop h.session hidle hidle' rfl rfl rfl rfl rfl)

/-- A queue within the capacity, empty where nothing is bound. -/
theorem State.Inv.setQueue {s : State} (h : s.Inv) {q : List (List Byte)} (hunbound : s.sockBound = false → q = [])
    (hdepth : q.length ≤ s.params.netQueueDepth) : State.Inv { s with net := { s.net with queue := q } } :=
  { h with
    unbound := hunbound
    depth := hdepth }

/-- Taking the head off the queue. -/
theorem State.Inv.dequeue {s : State} (h : s.Inv) {d : List Byte} {q : List (List Byte)} (hq : s.net.queue = d :: q) :
    State.Inv { s with net := { s.net with queue := q } } := by
  have hdepth := h.depth
  rw [hq, List.length_cons] at hdepth
  refine h.setQueue (fun hsock => ?_) (by omega)
  have hnil := h.unbound hsock
  simp [hq] at hnil

/-- A drop, from Wait or Process, with a code LAST_DECODE_ERR may hold. -/
theorem State.Inv.dropDatagram {s : State} (h : s.Inv) {c : ErrCode} (hc : c.isDropErr = true) (hidle : s.loop ≠ .idle)
    (hdispatch : s.loop ≠ .dispatch) : (dropDatagram c s).Inv :=
  { h.moveLoop (l := .check) hidle hdispatch (by decide) (by decide) s.pkt s.cur with dropCode := hc }

/-! ## The host's commands -/

/-- A StartSequence in Stopped. -/
theorem State.Inv.startSequence {s : State} (h : s.Inv) (hs : s.session = .stopped) : (startSequence s).Inv := by
  obtain ⟨hrun, hrestart, hloop, hsock, hhint⟩ := h.quiet (.inl hs)
  by_cases hlegal : s.pend.legal
  · rw [startSequence_legal hlegal]
    exact
      { h with
        session := ⟨hrun, hrestart, hloop, hsock, hhint⟩
        active := fun _ => hlegal
        offer := by simpa [hloop] using h.offer
        request := rfl
        binding := by simpa [hsock] using h.binding
        sessionCode := rfl
        noPending := fun _ => rfl }
  · obtain ⟨c, hc, hstart⟩ := startSequence_illegal hlegal
    rw [hstart]
    exact
      { h with
        sessionCode := by rcases hc with rfl | rfl <;> rfl
        noPending := by simp [hs] }

/-- A stop request in Running. -/
theorem State.Inv.beginStopping {s : State} (h : s.Inv) (again : Bool) (hs : s.session = .running) :
    (beginStopping again s).Inv := by
  have htable := h.session
  simp only [State.sessionTable, hs] at htable
  obtain ⟨-, -, -, hsock, hhint⟩ := htable
  exact
    { h with
      session := ⟨rfl, hsock, hhint⟩
      active := fun _ => h.active (by simp [hs])
      request := by simpa [hs] using h.request
      noPending := by simp }

/-! ## Net's steps -/

/-- The bind is confirmed. -/
theorem State.Inv.beginRunning {s : State} (h : s.Inv) {b : Binding} (hs : s.session = .starting)
    (hr : s.net.request = some b) : (beginRunning b s).Inv := by
  obtain ⟨-, hrestart, hloop, -, -⟩ := h.quiet (.inr hs)
  obtain ⟨hvalid, hoffer⟩ := h.noOffer (by simp [hloop])
  have hb : b = bindTriple s.act := by
    have hreq := h.request
    rw [hr, if_pos hs] at hreq
    exact Option.some.inj hreq
  exact
    { h with
      session := ⟨rfl, hrestart, by simp, rfl, rfl⟩
      active := fun _ => h.active (by simp [hs])
      valid := by simp [hvalid]
      offer := by simp [hoffer]
      windows := by simp
      request := rfl
      binding := congrArg some hb
      unbound := by simp
      noPending := fun _ => h.noPending (.inl hs) }

/-- The bind failed. -/
theorem State.Inv.failBind {s : State} (h : s.Inv) {c : ErrCode} (hs : s.session = .starting)
    (hc : c.isSessionErr = true) : (failBind c s).Inv :=
  { h with
    session := h.quiet (.inr hs)
    active := fun hne => absurd rfl hne
    request := rfl
    sessionCode := hc
    noPending := by simp }

/-- An arrival with room in the queue. -/
theorem State.Inv.enqueue {s : State} (h : s.Inv) (d : List Byte) (hb : s.net.binding ≠ none)
    (hroom : s.net.queue.length < s.params.netQueueDepth) :
    State.Inv { s with net := { s.net with queue := s.net.queue ++ [d] } } :=
  h.setQueue (by simp [h.bound_of_binding hb]) (by simpa using hroom)

/-- A loss of a queued datagram. -/
theorem State.Inv.eraseQueued {s : State} (h : s.Inv) (k : Nat) :
    State.Inv { s with net := { s.net with queue := s.net.queue.eraseIdx k } } :=
  h.setQueue (fun hsock => by simp [h.unbound hsock]) ((List.length_eraseIdx_le _ _).trans h.depth)

/-! ## The loop's steps -/

/-- Check. -/
theorem State.Inv.check {s : State} (h : s.Inv) (hl : s.loop = .check) :
    State.Inv { s with loop := if s.run then .wait else .idle } := by
  obtain ⟨hvalid, hoffer⟩ := h.noOffer (by simp [hl])
  obtain ⟨hsession, hsock, hhint⟩ := h.bound_of_loop (by simp [hl])
  have htable := h.session
  refine h.setLoop s.pkt s.cur (by split <;> simp) hvalid hoffer ?_
  rcases hsession with hs | hs <;> simp_all [State.sessionTable]

/-- Ingress of a datagram within the capacity. -/
theorem State.Inv.ingest {s : State} (h : s.Inv) {d : List Byte} (hl : s.loop = .wait)
    (hd : d.length ≤ s.params.maxDatagram) : (ingest d s).Inv :=
  { h.moveLoop (l := .process) (by simp [hl]) (by simp [hl]) (by decide) (by decide) s.pkt s.cur with
    bufferForm := Memory.writeBytes_wf 0 d h.bufferForm
    bufferBound := fun c hc => by
      rcases Memory.mem_writeBytes hc with hc | ⟨-, hc⟩
      · exact h.bufferBound c hc
      · simp only [Machine.ingest]
        omega
    bufLen := hd
    filled := fun a ha => by
      have ha : a < d.length := ha
      simp [Memory.read_writeBytes, ha]
    windows := by simp }

/-- The codes DECODE raises are codes LAST_DECODE_ERR may hold (R43). -/
theorem isDropErr_of_decodePacket {m : Memory} {len k : Nat} {c : ErrCode}
    (h : decodePacket m len k = .error (.raise c)) : c.isDropErr = true := by
  rcases decodePacket_eq_error h with hc | hc | hc | ⟨x, hc⟩ <;> cases hc <;> rfl

/-- The parts of a decoded packet tile its datagram (R163). -/
theorem tiles_of_decodePacket {m : Memory} {len k : Nat} {p : Packet} (h : decodePacket m len k = .ok p) :
    p.tiles len ∧ p.version = 2 := by
  obtain ⟨b, hd, ws, e, -, -, -, -, -, hle, rfl, ⟨hx, rfl⟩ | ⟨hx, he⟩⟩ := decodePacket_eq_ok h
  · refine ⟨⟨?_, ?_, ?_⟩, rfl⟩
    · simpa [noExtension] using Nat.add_sub_cancel' hle
    · simp [noExtension]
    · simp [noExtension, hx]
  · obtain ⟨-, -, hoffset, hcursor, hend⟩ := readExtension_eq_ok he hle
    refine ⟨⟨?_, ?_, ?_⟩, rfl⟩
    · simpa using Nat.add_sub_cancel' hend
    · simp [hoffset, hcursor]
    · simp [hoffset, hx]

/-- Process with an error. -/
theorem State.Inv.failDecode {s : State} (h : s.Inv) {c : ErrCode} (hc : c.isDropErr = true) (hl : s.loop = .process) :
    (failDecode c s).Inv :=
  { h.moveLoop (l := .check) (by simp [hl]) (by simp [hl]) (by decide) (by decide) (Machine.failDecode c s).pkt
      (Machine.failDecode c s).cur with
    dropCode := hc }

/-- Process with a packet that tiles the datagram. -/
theorem State.Inv.acceptPacket {s : State} (h : s.Inv) {p : Packet} (hp : p.tiles s.bufLen ∧ p.version = 2)
    (hl : s.loop = .process) : (acceptPacket p s).Inv :=
  { h with
    session := State.sessionTable_of_loop h.session (by simp [hl]) (by simp) rfl rfl rfl rfl rfl
    valid := by simp
    offer := rfl
    windows := fun _ => hp }

/-! ## Down's steps, block control and reset -/

/-- SINK_ACK. -/
theorem State.Inv.endDispatch {s : State} (h : s.Inv) (hl : s.loop = .dispatch) : (endDispatch s).Inv :=
  h.setLoop s.pkt s.cur (by decide) rfl rfl
    (State.sessionTable_of_loop h.session (by simp [hl]) (by simp) rfl rfl rfl rfl rfl)

/-- CONV_FATAL. -/
theorem State.Inv.fatalReport {s : State} (h : s.Inv) (hl : s.loop = .dispatch) : (fatalReport s).Inv := by
  obtain ⟨hsession, hsock, hhint⟩ := h.bound_of_loop (by simp [hl])
  have hstopping : (if s.session = .running then .stopping else s.session) = Session.stopping := by rcases hsession with hs | hs <;> simp [hs]
  have hnotStopped : s.session ≠ .stopped := by rcases hsession with hs | hs <;> simp [hs]
  have hnotStarting : s.session ≠ .starting := by rcases hsession with hs | hs <;> simp [hs]
  exact
    { h.endDispatch hl with
      session := by simp [State.sessionTable, hstopping, hsock, hhint]
      active := fun _ => h.active hnotStopped
      request := by simpa [hstopping, hnotStarting] using h.request
      sessionCode := rfl
      noPending := by simp [hstopping] }

/-- The release of a session, with RESTART cleared. -/
theorem State.Inv.releaseSession {s : State} (h : s.Inv) (hs : s.session = .stopping) (hl : s.loop = .idle) :
    State.Inv { releaseSession s with restart := false } := by
  have htable := h.session
  simp only [State.sessionTable, hs] at htable
  exact
    { h with
      session := ⟨htable.1, rfl, hl, rfl, rfl⟩
      active := fun hne => absurd rfl hne
      request := by simpa [hs] using h.request
      binding := rfl
      unbound := fun _ => rfl
      depth := Nat.zero_le _
      noPending := by simp }

/-- The reset step. -/
theorem State.Inv.resetBlock {s : State} (h : s.Inv) : (resetBlock s).Inv where
  params := h.params
  session := ⟨rfl, rfl, rfl, rfl, rfl⟩
  active := fun hne => absurd rfl hne
  bufferForm := List.Pairwise.nil
  bufferBound := by simp
  bufLen := Nat.zero_le _
  filled := by simp [State.bufferFilled]
  valid := by simp
  offer := rfl
  windows := by simp
  request := rfl
  binding := rfl
  unbound := fun _ => rfl
  depth := Nat.zero_le _
  sessionCode := rfl
  dropCode := rfl
  noPending := fun _ => rfl

/-! ## Every step -/

/-- Every effect of a move keeps the invariant. -/
theorem MoveEffect.inv {s t : State} {mv : Move} (e : MoveEffect s mv t) (h : s.Inv) : t.Inv := by
  cases e with
  | hostLocal v c hp => exact h.setUntracked c _ _ v _ _ _
  | hostStart more hs hw => exact (h.setUntracked s.cfg s.cfg more _ _ _ _).startSequence hs
  | hostStop more hs hw => exact (h.setUntracked s.cfg s.pend more _ _ _ _).beginStopping false hs
  | hostReconfigure more hs hw => exact (h.setUntracked s.cfg s.cfg more _ _ _ _).beginStopping true hs
  | bindOk hs hr => exact h.beginRunning hs hr
  | bindFail hs hr hv => exact h.failBind hs (by rcases hv with ⟨-, rfl⟩ | ⟨-, rfl⟩ <;> rfl)
  | arriveQueued hb hroom => exact h.enqueue _ hb hroom
  | arriveLost hb hfull => exact h
  | lose hk => exact h.eraseQueued _
  | check hl => exact h.check hl
  | rxTooLong hl hq hd => exact (h.dequeue hq).dropDatagram rfl (by simp [hl]) (by simp [hl])
  | rxIngest hl hq hd => exact (h.dequeue hq).ingest hl hd
  | timeout hl => exact h.moveLoop (by simp [hl]) (by simp [hl]) (by decide) (by decide) s.pkt s.cur
  | processDrop hl hd => exact h.failDecode (isDropErr_of_decodePacket hd) hl
  | processAccept hl hd => exact h.acceptPacket (tiles_of_decodePacket hd) hl
  | sinkAck hl => exact h.endDispatch hl
  | convFatal hl => exact h.fatalReport hl
  | downRead b n hk => exact h.setUntracked _ _ _ _ b _ n
  | completeStopped hs hl hr =>
    have hrelease : Machine.releaseSession s = { Machine.releaseSession s with restart := false } := by
      rw [← hr, ← releaseSession_restart]
    exact hrelease ▸ h.releaseSession hs hl
  | completeRestarted hs hl hr => exact (h.releaseSession hs hl).startSequence rfl
  | reset => exact h.resetBlock

/-- Settles O44, one lemma per effect of a move. -/
theorem everyStepKeepsTheInvariant : Obligations.EveryStepKeepsTheInvariant := by
  intro s t h hstep
  obtain ⟨mv, rest, hs⟩ := step_schedule hstep
  exact (step_effect hs hstep).inv (h.setUntracked s.cfg s.pend _ _ _ rest _)

end Sys2Proof.Machine
end

section
/-! Proofs. What every step leaves of the parameters, the counters, the configurations, SESSION_ERR and Net's queue. -/

namespace Sys2Proof.Machine

/-! ## The parameters and the enabling conditions -/

/-- A command written is an access left. -/
theorem State.hostWritesCommand.hostProgram_ne_nil {s : State} {op : BitVec 4} (h : s.hostWritesCommand op) :
    s.hostProgram ≠ [] := by
  obtain ⟨w, more, hp, -⟩ := h
  simp [hp]

/-- No step writes the parameters (R59). -/
theorem MoveEffect.params {s t : State} {mv : Move} (e : MoveEffect s mv t) : t.params = s.params := by
  cases e <;> simp

/-- No move writes the moves that come after it. -/
theorem MoveEffect.schedule {s t : State} {mv : Move} (e : MoveEffect s mv t) : t.schedule = s.schedule := by
  cases e <;> simp

/-- Settles O10: each effect of a move carries its rule's enabling condition. -/
theorem stepsHappenOnlyWhereEnabled : Obligations.StepsHappenOnlyWhereEnabled := by
  intro s t mv rest hs hstep
  have e := step_effect hs hstep
  refine ⟨e.schedule, e.params, ?_⟩
  cases e with
  | hostLocal v c hp => exact ne_of_eq_of_ne hp (List.cons_ne_nil _ _)
  | hostStart more hstopped hw =>
    rcases hw with hw | hw <;> exact hw.hostProgram_ne_nil
  | hostStop more hrunning hw => exact hw.hostProgram_ne_nil
  | hostReconfigure more hrunning hw => exact hw.hostProgram_ne_nil
  | bindOk hstarting hr => exact ⟨hstarting, ne_of_eq_of_ne hr (Option.some_ne_none _)⟩
  | bindFail hstarting hr hv => exact ⟨hstarting, ne_of_eq_of_ne hr (Option.some_ne_none _)⟩
  | arriveQueued hb hroom => exact hb
  | arriveLost hb hfull => exact hb
  | lose hk => exact hk
  | check hl => exact hl
  | rxTooLong hl hq hd => exact ⟨hl, ne_of_eq_of_ne hq (List.cons_ne_nil _ _)⟩
  | rxIngest hl hq hd => exact ⟨hl, ne_of_eq_of_ne hq (List.cons_ne_nil _ _)⟩
  | timeout hl => exact hl
  | processDrop hl hd => exact hl
  | processAccept hl hd => exact hl
  | sinkAck hl => exact hl
  | convFatal hl => exact hl
  | downRead b n hk => exact hk
  | completeStopped hstopping hl hr => exact ⟨hstopping, hl⟩
  | completeRestarted hstopping hl hr => exact ⟨hstopping, hl⟩
  | reset => trivial

/-! ## The counters -/

/-- Only ingress, Process and reset write a counter (R39, R40). -/
theorem MoveEffect.counters {s t : State} {mv : Move} (e : MoveEffect s mv t) (hrx : mv ≠ .rxDatagram)
    (hprocess : mv ≠ .process) (hreset : mv ≠ .reset) : t.rxOkCount = s.rxOkCount ∧ t.rxDropCount = s.rxDropCount := by
  cases e with
  | rxTooLong => exact absurd rfl hrx
  | rxIngest => exact absurd rfl hrx
  | processDrop => exact absurd rfl hprocess
  | processAccept => exact absurd rfl hprocess
  | reset => exact absurd rfl hreset
  | _ => simp

/-- Settles O49: an effect of Process is a drop or an accept as DECODE says, one of ingress a drop or not by the head's length. -/
theorem countersCountDecodesAndDrops : Obligations.CountersCountDecodesAndDrops := by
  refine ⟨rfl, rfl, fun s t mv rest hs hstep hreset => ?_⟩
  have e := step_effect hs hstep
  by_cases hprocess : mv = .process
  · subst hprocess
    cases e with
    | processDrop hl hd =>
      dsimp only at hd
      simp [hd]
    | processAccept hl hd =>
      dsimp only at hd
      simp [hd]
  by_cases hrx : mv = .rxDatagram
  · subst hrx
    cases e with
    | rxTooLong hl hq hd =>
      dsimp only at hq hd
      simp [hq, hd]
    | rxIngest hl hq hd =>
      dsimp only at hq hd
      simp [hq, hd]
  obtain ⟨hok, hdrop⟩ := e.counters hrx hprocess hreset
  simp [hprocess, hrx, hok, hdrop]

/-! ## The configurations -/

/-- ACT_* changes only where a StartSequence latches PEND_* and enters Starting (R38, R235). -/
theorem MoveEffect.act_latched {s t : State} {mv : Move} (e : MoveEffect s mv t) (hreset : mv ≠ .reset)
    (h : t.act ≠ s.act) :
    t.session = .starting ∧ (s.session = .stopped ∨ s.session = .stopping) ∧ t.act = t.pend := by
  cases e with
  | hostStart more hs hw =>
    obtain ⟨hstarting, hact⟩ := startSequence_latches h
    exact ⟨hstarting, .inl hs, by simpa using hact⟩
  | completeRestarted hs hl hr =>
    obtain ⟨hstarting, hact⟩ := startSequence_latches h
    exact ⟨hstarting, .inr hs, by simpa using hact⟩
  | reset => exact absurd rfl hreset
  | _ => exact absurd rfl h

/-- CFG_* changes only by the Host (R89). -/
theorem MoveEffect.cfg_host {s t : State} {mv : Move} (e : MoveEffect s mv t) (hreset : mv ≠ .reset)
    (h : t.cfg ≠ s.cfg) : mv = .host := by
  cases e with
  | hostLocal => rfl
  | hostStart => rfl
  | completeRestarted => simp at h
  | reset => exact absurd rfl hreset
  | _ => exact absurd rfl h

/-- PEND_* changes only to CFG_*, by the Host (R44). -/
theorem MoveEffect.pend_host {s t : State} {mv : Move} (e : MoveEffect s mv t) (hreset : mv ≠ .reset)
    (h : t.pend ≠ s.pend) : mv = .host ∧ t.pend = s.cfg := by
  cases e with
  | hostStart => exact ⟨rfl, by simp⟩
  | hostReconfigure => exact ⟨rfl, rfl⟩
  | completeRestarted => simp at h
  | reset => exact absurd rfl hreset
  | _ => exact absurd rfl h

/-- Settles O50: the three registers, each from the effects that write it. -/
theorem configurationIsLatched : Obligations.ConfigurationIsLatched := by
  intro s t mv rest hs hstep hreset
  have e := step_effect hs hstep
  exact ⟨e.act_latched hreset, e.cfg_host hreset, e.pend_host hreset⟩

/-! ## SESSION_ERR -/

/-- Settles O51: every other effect leaves SESSION_ERR as it was. -/
theorem sessionErrorIsSticky : Obligations.SessionErrorIsSticky := by
  intro s t mv rest hs hstep hchanged
  cases step_effect hs hstep with
  | hostStart more hstopped hw => exact .inl ⟨rfl, hstopped, hw⟩
  | completeRestarted hstopping hl hr => exact .inr (.inl ⟨rfl, hr⟩)
  | bindFail hstarting hr hv => rcases hv with ⟨rfl, -⟩ | ⟨rfl, -⟩ <;> simp
  | convFatal => simp
  | reset => simp
  | _ => exact absurd rfl hchanged

/-! ## Net's queue -/

/-- Settles O56: each effect's queue, and the effects that leave it alone. -/
theorem netQueueIsALossyFifo : Obligations.NetQueueIsALossyFifo := by
  intro s t mv rest hs hstep
  cases step_effect hs hstep with
  | arriveQueued hb hroom => exact (if_pos hroom).symm
  | arriveLost hb hfull => exact (if_neg hfull).symm
  | lose hk => exact List.eraseIdx_eq_take_drop_succ _ _
  | rxTooLong hl hq hd =>
    dsimp only at hq
    simp [hq]
  | rxIngest hl hq hd =>
    dsimp only at hq
    simp [hq]
  | completeRestarted => simp
  | hostStart => simp
  | _ => rfl

end Sys2Proof.Machine
end

section
/-! Proofs. Down's reads of the windows offered to it (R55, R82). -/

namespace Sys2Proof.Machine

/-- Both windows of an offered record end inside the datagram (R82). -/
theorem State.Inv.place_le {s : State} (h : s.Inv) {r : DispatchRecord} (hr : s.offer = some r) (w : Window) :
    (r.place w).1 + (r.place w).2 ≤ s.bufLen := by
  have hl : s.loop = .dispatch := by
    by_contra hl
    simp [(h.noOffer hl).2] at hr
  have hrecord : r = dispatchRecord s.pkt s.act.stream := by
    have hoffer := h.offer
    rw [hr, if_pos hl] at hoffer
    exact Option.some.inj hoffer
  obtain ⟨⟨hpayload, hext, -⟩, -⟩ := h.windows hl
  subst hrecord
  cases w with
  | extension =>
    simp only [DispatchRecord.place, dispatchRecord]
    omega
  | payload =>
    simp only [DispatchRecord.place, dispatchRecord]
    omega

/-- Settles O55: a window lies inside the datagram, every byte of which has a value. -/
theorem downReadsTheWindows : Obligations.DownReadsTheWindows := by
  intro s w k rest r h hs hr
  rw [step_of_schedule hs]
  simp only [moveAction, downReadStep, hr]
  constructor
  · intro hk
    have hend := h.place_le hr w
    obtain ⟨b, hread, hbyte⟩ := byteAt_of_filled h.filled (show (r.place w).1 + k < s.bufLen by omega)
    exact ⟨b, hread, by simp [hk, hbyte]⟩
  · intro hk
    simp [Nat.not_lt.2 hk]

end Sys2Proof.Machine
end

section
/-! Proofs. The host's accesses: an aligned word of the window, what it reads, what it writes, and the command it issues. -/

namespace Sys2Proof.Machine

/-- A host access of an aligned word of the window reaches its offset (R31, R85, R87). -/
theorem step_hostAccess {s : State} {k : AccessKind} {off : Nat} {rest : List Move} {more : List HostAccess}
    (halign : off % 4 = 0) (hin : off + 4 ≤ s.params.windowBytes) (hs : s.schedule = .host :: rest)
    (hp : s.hostProgram = ⟨k, s.params.regBase + off, 4⟩ :: more) :
    step s = runAction (hostAccess k off { s with schedule := rest, hostProgram := more }) := by
  have hadmitted : HostAccess.admitted s.params ⟨k, s.params.regBase + off, 4⟩ = true := by
    simp [HostAccess.admitted, halign, Nat.add_assoc, hin]
  have hoffset : HostAccess.offset s.params ⟨k, s.params.regBase + off, 4⟩ = off := Nat.add_sub_cancel_left ..
  rw [step_of_schedule hs]
  simp only [moveAction, hostStep, hp, if_pos hadmitted, hoffset]

/-- Settles O8: CMD is offset 0 of the window. -/
theorem stepRunsTheCommandWritten : Obligations.StepRunsTheCommandWritten := by
  intro s w i rest more hwf hs hp hi
  obtain rfl : decodeCommand w = i := Except.ok.inj hi
  exact step_hostAccess (off := 0) rfl (by omega) hs hp

/-- Offsets 0x28 and above are unmapped (R31, R41). -/
theorem ofOffset_unmapped {off : Nat} (h : 0x28 ≤ off) : Reg.ofOffset off = none := by
  unfold Reg.ofOffset
  split
  case h_11 => rfl
  all_goals omega

/-- Settles O40: a read of an offset is a read of its register, or 0. -/
theorem hostReadsHaveNoSideEffect : Obligations.HostReadsHaveNoSideEffect := by
  intro s off rest more _ halign hin hs hp
  refine ⟨s.readOffset off, step_hostAccess halign hin hs hp, ?_⟩
  have hunmapped : 0x28 ≤ off → s.readOffset off = 0 := fun h => by rw [State.readOffset, ofOffset_unmapped h]
  refine ⟨?_, ?_, ?_, ?_, ?_, ?_, ?_, ?_, ?_, ?_, hunmapped⟩ <;> rintro rfl <;> rfl

/-- The stream word of a word written keeps its bits [5:0] (R37). -/
theorem toWord_ofWord (w : Word) : (Stream.ofWord w).toWord = w &&& 0x3F := by
  apply BitVec.eq_of_getLsbD_eq
  intro i hi
  simp only [Stream.ofWord, Stream.toWord, BitVec.getLsbD_append, BitVec.getLsbD_extractLsb', BitVec.getLsbD_and]
  interval_cases i <;> simp

/-- A write outside CMD and CFG_* changes nothing (R31, R41). -/
theorem hostAccess_write_ignored {off : Nat} (w : Word) (s : State) (hcmd : off ≠ 0x00) (hgroup : off ≠ 0x08)
    (hiface : off ≠ 0x0C) (hstream : off ≠ 0x10) : hostAccess (.write w) off s = becomes s := by
  simp only [hostAccess]
  split
  next r hr =>
    unfold Reg.ofOffset at hr
    split at hr
    case h_1 | h_3 | h_4 | h_5 => contradiction
    case h_11 => cases hr
    all_goals
      cases hr
      rfl
  next => rfl

/-- Settles O41: the three CFG_* offsets one by one, and every other offset but CMD's together. -/
theorem hostWritesToConfigRegisters : Obligations.HostWritesToConfigRegisters := by
  intro s off w rest more _ halign hin hne hs hp
  rw [step_hostAccess halign hin hs hp]
  refine ⟨?_, ?_, ?_, ?_⟩
  · rintro rfl
    rfl
  · rintro rfl
    rfl
  · rintro rfl
    exact ⟨Stream.ofWord w, rfl, rfl, rfl, rfl, toWord_ofWord w⟩
  · intro hgroup hiface hstream
    rw [hostAccess_write_ignored w _ hne hgroup hiface hstream, runAction_becomes]

end Sys2Proof.Machine
end

section
/-! Proofs. The fields of the STATUS word (R33). -/

namespace Sys2Proof.Machine

section
variable (s : State)

theorem status_session : s.status.extractLsb' 0 2 = s.session.code := BitVec.extractLsb'_append_eq_right

theorem status_busy : s.status.getLsbD 2 = s.busy := by
  simp only [State.status, BitVec.getLsbD_append]
  simp

theorem status_perfHint : s.status.getLsbD 3 = s.perfHint := by
  simp only [State.status, BitVec.getLsbD_append]
  simp

theorem status_sockBound : s.status.getLsbD 4 = s.sockBound := by
  simp only [State.status, BitVec.getLsbD_append]
  simp

theorem status_run : s.status.getLsbD 5 = s.run := by
  simp only [State.status, BitVec.getLsbD_append]
  simp

theorem status_reservedLow : s.status.extractLsb' 6 2 = 0#2 := by
  simp (disch := decide) only [State.status, BitVec.extractLsb'_append_eq_of_le, BitVec.extractLsb'_append_eq_of_add_le,
    Nat.reduceSub, BitVec.extractLsb'_eq_self]

theorem status_sessionErr : s.status.extractLsb' 8 8 = s.sessionErr.code := by
  simp (disch := decide) only [State.status, BitVec.extractLsb'_append_eq_of_le, BitVec.extractLsb'_append_eq_of_add_le,
    Nat.reduceSub, BitVec.extractLsb'_eq_self]

theorem status_lastDecodeErr : s.status.extractLsb' 16 8 = s.lastDecodeErr.code := by
  simp (disch := decide) only [State.status, BitVec.extractLsb'_append_eq_of_le, BitVec.extractLsb'_append_eq_of_add_le,
    Nat.reduceSub, BitVec.extractLsb'_eq_self]

theorem status_reservedHigh : s.status.extractLsb' 24 8 = 0#8 := by
  simp (disch := decide) only [State.status, BitVec.extractLsb'_append_eq_of_le, Nat.reduceSub, BitVec.extractLsb'_eq_self]

/-- BUSY is 1 exactly in Starting and Stopping (R46). -/
theorem busy_iff : s.busy = true ↔ s.session = .starting ∨ s.session = .stopping := by
  cases h : s.session <;> simp [State.busy, h]

end

/-- Settles O39, field by field. -/
theorem statusFields : Obligations.StatusFields := by
  intro s
  refine ⟨rfl, ?_, ?_, status_perfHint s, status_sockBound s, status_run s, status_reservedLow s, status_sessionErr s,
    status_lastDecodeErr s, status_reservedHigh s, rfl, rfl, rfl, rfl, rfl, rfl, rfl, rfl, rfl, rfl, rfl, rfl⟩
  · rw [status_session]
    cases s.session <;> rfl
  · rw [status_busy, busy_iff]

end Sys2Proof.Machine
end

section
/-! Proofs. What more the frames need: the rest of StartSequence's, and DECODE on a buffer that holds its datagram. -/

namespace Sys2Proof.Machine

/-! ## StartSequence -/

section
variable (s : State)

@[simp] theorem startSequence_loop : (startSequence s).loop = s.loop := by rw [startSequence_frame]
@[simp] theorem startSequence_run : (startSequence s).run = s.run := by rw [startSequence_frame]
@[simp] theorem startSequence_perfHint : (startSequence s).perfHint = s.perfHint := by rw [startSequence_frame]
@[simp] theorem startSequence_sockBound : (startSequence s).sockBound = s.sockBound := by rw [startSequence_frame]
@[simp] theorem startSequence_pktBuf : (startSequence s).pktBuf = s.pktBuf := by rw [startSequence_frame]
@[simp] theorem startSequence_bufLen : (startSequence s).bufLen = s.bufLen := by rw [startSequence_frame]
@[simp] theorem startSequence_pkt : (startSequence s).pkt = s.pkt := by rw [startSequence_frame]
@[simp] theorem startSequence_pktValid : (startSequence s).pktValid = s.pktValid := by rw [startSequence_frame]
@[simp] theorem startSequence_cur : (startSequence s).cur = s.cur := by rw [startSequence_frame]
@[simp] theorem startSequence_offer : (startSequence s).offer = s.offer := by rw [startSequence_frame]

end

/-- A StartSequence in Stopped does not lead to Stopping (R235). -/
theorem startSequence_ne_stopping {s : State} (hs : s.session = .stopped) : (startSequence s).session ≠ .stopping := by
  rcases startSequence_cases s with h | ⟨c, -, h⟩ <;> simp [h, hs]

/-! ## DECODE on a buffer that holds its datagram -/

/-- On a buffer that holds its datagram DECODE reads no byte it may not (R158). -/
theorem decodePacket_ne_noByte {m : Memory} {len draw a : Nat} (hf : m.filled len) :
    decodePacket m len draw ≠ .error (.noByte a) := by
  intro h
  unfold decodePacket at h
  split at h
  · cases h
  next hlen =>
    obtain ⟨b, -, hb⟩ := byteAt_of_filled hf (show 0 < len by omega)
    obtain ⟨hd, hhd⟩ := readFixedHeader_of_filled hf (show 12 ≤ len by omega)
    obtain ⟨hlistShort, hlist⟩ := readCsrcList_of_filled (byte0CsrcCount b) hf (show 12 < len by omega)
    simp only [hb, hhd, except_ok_bind] at h
    split at h
    · cases h
    by_cases hroom : len < 12 + 4 * (byte0CsrcCount b).toNat
    · simp [hlistShort hroom] at h
    have hroom := Nat.not_lt.1 hroom
    obtain ⟨ws, hws⟩ := hlist hroom
    simp only [hws, except_ok_bind] at h
    split at h
    · obtain ⟨hpreambleShort, hpreamble⟩ := readExtension_of_filled hf hroom
      by_cases hpre : len < 12 + 4 * (byte0CsrcCount b).toNat + 4
      · simp [hpreambleShort hpre] at h
      obtain ⟨hid, hlen, -, -, hbodyShort, hbody⟩ := hpreamble (Nat.not_lt.1 hpre)
      by_cases hend : len < 12 + 4 * (byte0CsrcCount b).toNat + 4 + hlen.toNat
      · simp [hbodyShort hend] at h
      · simp [hbody (Nat.not_lt.1 hend)] at h
    · cases h

/-- On a buffer that holds its datagram the result of DECODE is an error code or a packet (R150, R158). -/
theorem decodePacket_of_filled {m : Memory} {len : Nat} (draw : Nat) (hf : m.filled len) :
    (∃ c, decodePacket m len draw = .error (.raise c)) ∨ ∃ p, decodePacket m len draw = .ok p := by
  cases h : decodePacket m len draw with
  | ok p => exact .inr ⟨p, rfl⟩
  | error e =>
    cases e with
    | raise c => exact .inl ⟨c, rfl⟩
    | noByte a => exact absurd h (decodePacket_ne_noByte hf)

end Sys2Proof.Machine
end

section
/-! Proofs. The phases of the loop: the moves that end each, and how far it is from Idle with RUN at 0. -/

namespace Sys2Proof.Machine

/-- In Starting no loop exists yet (R231). -/
theorem State.Inv.idle_of_starting {s : State} (h : s.Inv) (hs : s.session = .starting) : s.loop = .idle := by
  obtain ⟨-, -, hidle, -, -⟩ := h.quiet (.inr hs)
  exact hidle

/-- RUN is 0 in Stopping (R231). -/
theorem State.Inv.run_of_stopping {s : State} (h : s.Inv) (hs : s.session = .stopping) : s.run = false := by
  have htable := h.session
  simp only [State.sessionTable, hs] at htable
  exact htable.1

/-- The moves that end a phase of the loop: the labels of the edges out of it (R280). -/
def Phase.exits : Phase → List Move
  | .idle => [.bindResp .ok]
  | .check => [.check]
  | .wait => [.rxDatagram, .rxTimeout]
  | .process => [.process]
  | .dispatch => [.sinkAck, .convFatal]

theorem Phase.mem_exits {l : Phase} {mv : Move} :
    mv ∈ l.exits ↔ (l = .idle ∧ mv = .bindResp .ok) ∨ (l = .check ∧ mv = .check) ∨
      (l = .wait ∧ (mv = .rxDatagram ∨ mv = .rxTimeout)) ∨ (l = .process ∧ mv = .process) ∨
      (l = .dispatch ∧ (mv = .sinkAck ∨ mv = .convFatal)) := by
  cases l <;> simp [Phase.exits]

/-- Only a move that ends the phase, or reset, changes LOOP (R280). -/
theorem MoveEffect.mem_exits {s t : State} {mv : Move} (e : MoveEffect s mv t) (h : s.Inv) (hreset : mv ≠ .reset)
    (hne : t.loop ≠ s.loop) : mv ∈ s.loop.exits := by
  rw [Phase.mem_exits]
  cases e with
  | bindOk hs hr => exact .inl ⟨h.idle_of_starting hs, rfl⟩
  | check hl | rxTooLong hl | rxIngest hl | timeout hl | processDrop hl | processAccept hl | sinkAck hl | convFatal hl =>
    simp [hl]
  | reset => exact absurd rfl hreset
  | _ => simp at hne

/-- A move that ends the phase changes LOOP (R280). -/
theorem MoveEffect.loop_ne {s t : State} {mv : Move} (e : MoveEffect s mv t) (hmv : mv ∈ s.loop.exits) :
    t.loop ≠ s.loop := by
  rw [Phase.mem_exits] at hmv
  cases e with
  | bindOk hs hr =>
    have hl : s.loop = .idle := by simpa using hmv
    simp [hl]
  | bindFail hs hr hv => rcases hv with ⟨rfl, -⟩ | ⟨rfl, -⟩ <;> simp at hmv
  | check hl => cases hr : s.run <;> simp [hl]
  | rxTooLong hl | rxIngest hl | timeout hl | processDrop hl | processAccept hl | sinkAck hl | convFatal hl => simp [hl]
  | _ => simp at hmv

/-- The most steps of the loop and of Down that a loop with RUN at 0 takes to reach Idle (R280). -/
def Phase.toIdle : Phase → Nat
  | .idle => 0
  | .check => 1
  | .dispatch => 2
  | .process => 3
  | .wait => 4

/-- With RUN at 0 every move that ends a phase of a loop brings it nearer to Idle. -/
theorem MoveEffect.nearer_idle {s t : State} {mv : Move} (e : MoveEffect s mv t) (hrun : s.run = false)
    (hidle : s.loop ≠ .idle) (hmv : mv ∈ s.loop.exits) : t.loop.toIdle < s.loop.toIdle := by
  rw [Phase.mem_exits] at hmv
  cases e with
  | check hl => simp [hl, hrun, Phase.toIdle]
  | rxTooLong hl | rxIngest hl | timeout hl | processDrop hl | processAccept hl | sinkAck hl | convFatal hl =>
    simp [hl, Phase.toIdle]
  | _ => simp [hidle] at hmv

/-- A loop that ends does so by a Check step that sees RUN at 0 (R281). -/
theorem MoveEffect.check_of_idle {s t : State} {mv : Move} (e : MoveEffect s mv t) (hreset : mv ≠ .reset)
    (hidle : s.loop ≠ .idle) (hidle' : t.loop = .idle) : s.loop = .check ∧ mv = .check := by
  cases e with
  | check hl => exact ⟨hl, rfl⟩
  | reset => exact absurd rfl hreset
  | _ => simp [hidle] at hidle'

/-- While a loop exists nothing sets RUN (R236). -/
theorem MoveEffect.run_cleared {s t : State} {mv : Move} (e : MoveEffect s mv t) (h : s.Inv) (hidle : s.loop ≠ .idle)
    (hrun : s.run = false) : t.run = false := by
  cases e with
  | bindOk hs hr => exact absurd (h.idle_of_starting hs) hidle
  | _ => simp [hrun]

end Sys2Proof.Machine
end

section
/-! Proofs. The drain after a stop, along a finite run: how many datagrams are still taken and processed (R294). -/

namespace Sys2Proof.Machine

/-- A run of one step and of k more has a last state exactly when the step has a next state from which the k steps have it. -/
theorem coreRun_succ {M : Host.Core} {k : Nat} {s u : M.State} :
    M.run (k + 1) s = .next u ↔ ∃ t, M.step s = .next t ∧ M.run k t = .next u := by
  rw [Host.Core.run]
  cases M.step s <;> simp

/-- The datagrams a loop with RUN at 0 can still take (R281, R282). -/
def Phase.takes (l : Phase) : Nat := if l = .wait then 1 else 0

/-- The datagrams a loop with RUN at 0 can still process (R281, R284). -/
def Phase.processes (l : Phase) : Nat := if l = .wait ∨ l = .process then 1 else 0

/-- In Stopping every move but completion and reset leaves STATE, and takes from what the loop can still do what the move itself
does (R294). -/
theorem MoveEffect.drains {s t : State} {mv : Move} (e : MoveEffect s mv t) (hs : s.session = .stopping)
    (hrun : s.run = false) (hcomplete : mv ≠ .complete) (hreset : mv ≠ .reset) :
    t.session = .stopping ∧ [mv].count .rxDatagram + t.loop.takes ≤ s.loop.takes ∧
      [mv].count .process + t.loop.processes ≤ s.loop.processes := by
  cases e with
  | hostStart _ hs' | hostStop _ hs' | hostReconfigure _ hs' | bindOk hs' | bindFail hs' => simp [hs] at hs'
  | completeStopped | completeRestarted => exact absurd rfl hcomplete
  | reset => exact absurd rfl hreset
  | hostLocal | arriveQueued | arriveLost | lose | downRead => simp [hs]
  | check hl | rxTooLong hl | rxIngest hl | timeout hl | processDrop hl | processAccept hl | sinkAck hl | convFatal hl =>
    simp [hs, hl, hrun, Phase.takes, Phase.processes]

/-- Settles O58, by induction on the moves: each takes from what the loop can still do what it does itself. -/
theorem atMostOneDatagramAfterTheStop : Obligations.AtMostOneDatagramAfterTheStop := by
  intro s t moves rest h hs hschedule hcomplete hreset hrun
  change _ ≤ s.loop.takes ∧ _ ≤ s.loop.processes ∧ _
  induction moves generalizing s with
  | nil =>
    obtain rfl := Host.Outcome.next.inj hrun
    exact ⟨Nat.zero_le _, Nat.zero_le _, hs⟩
  | cons mv moves ih =>
    rw [List.mem_cons, not_or] at hcomplete hreset
    obtain ⟨u, hstep, hrun⟩ := coreRun_succ.1 hrun
    have e := step_effect hschedule hstep
    obtain ⟨hsession, htakes, hprocesses⟩ :=
      e.drains hs (h.run_of_stopping hs) (Ne.symm hcomplete.1) (Ne.symm hreset.1)
    obtain ⟨ihtakes, ihprocesses, iht⟩ :=
      ih u (everyStepKeepsTheInvariant s u h hstep) hsession e.schedule hcomplete.2 hreset.2 hrun
    rw [← List.singleton_append, List.count_append, List.count_append]
    dsimp only at htakes hprocesses
    exact ⟨by omega, by omega, iht⟩

end Sys2Proof.Machine
end

section
/-! Proofs. Along an infinite run a phase that is fair is left, and a loop whose RUN is 0 ends at a Check step (R292). -/

namespace Sys2Proof.Machine

variable {states : Nat → State} {moves : Nat → Move} {accesses : Nat → List HostAccess} {n : Nat}

/-- The step at an index of a run has an effect of its move, on a state like that of the index but for what comes next. -/
theorem IsRun.effect (h : IsRun states moves accesses) (hinv : (states n).Inv) :
    ∃ s : State, s.Inv ∧ s.loop = (states n).loop ∧ s.run = (states n).run ∧ MoveEffect s (moves n) (states (n + 1)) :=
  ⟨{ states n with schedule := [], hostProgram := (states n).hostProgram ++ accesses n },
    hinv.setUntracked _ _ _ _ _ _ _, rfl, rfl, moveAction_effect (h.move n)⟩

/-- The invariant at an index of a run holds from there on. -/
theorem IsRun.inv (h : IsRun states moves accesses) (hinv : (states n).Inv) {m : Nat} (hm : n ≤ m) : (states m).Inv := by
  induction m, hm using Nat.le_induction with
  | base => exact hinv
  | succ m hm ih =>
    obtain ⟨s, hs, -, -, e⟩ := h.effect ih
    exact e.inv hs

/-- A phase fair in the moves that end it is left, by one of them or by reset. -/
theorem IsRun.leaves_phase (h : IsRun states moves accesses) (hinv : (states n).Inv)
    (hfair : FairInPhase (states n).loop (states n).loop.exits states moves) :
    ∃ m ≥ n, (∀ k, n ≤ k → k ≤ m → (states k).loop = (states n).loop) ∧ (states (m + 1)).loop ≠ (states n).loop ∧
      (moves m ∈ (states n).loop.exits ∨ moves m = .reset) := by
  rcases holds_forever_or_ends (p := fun k => (states k).loop = (states n).loop) (n := n) rfl with
    hforever | ⟨m, hm, hstays, hleft⟩
  · obtain ⟨m, hm, hmv⟩ := hfair n hforever
    obtain ⟨s, hs, hloop, -, e⟩ := h.effect (h.inv hinv hm)
    rw [hforever m hm] at hloop
    exact absurd ((hforever (m + 1) (by omega)).trans hloop.symm) (e.loop_ne (hloop ▸ hmv))
  · obtain ⟨s, hs, hloop, -, e⟩ := h.effect (h.inv hinv hm)
    rw [hstays m hm le_rfl] at hloop
    refine ⟨m, hm, hstays, hleft, ?_⟩
    by_cases hreset : moves m = .reset
    · exact .inr hreset
    · exact .inl (hloop ▸ e.mem_exits hs hreset (hloop ▸ hleft))

/-- Every phase but Idle is fair in the moves that end it, once the Loop proceeds and Down answers (R292, R293). -/
theorem fairInPhase_exits (hwait : FairInWait states moves) (hloop : LoopProceeds states moves)
    (hdown : DownAnswers states moves) {l : Phase} (hidle : l ≠ .idle) : FairInPhase l l.exits states moves := by
  cases l with
  | idle => exact absurd rfl hidle
  | check => exact hloop.1
  | wait => exact hwait
  | process => exact hloop.2
  | dispatch => exact hdown

/-- A loop with RUN at 0 does not go on for ever where every phase is fair: each phase is left for one nearer to Idle. -/
theorem IsRun.not_loop_forever (h : IsRun states moves accesses) (hinv : (states n).Inv)
    (hfair : ∀ l : Phase, l ≠ .idle → FairInPhase l l.exits states moves) (hreset : ∀ m ≥ n, moves m ≠ .reset) :
    ¬ ∀ m ≥ n, (states m).run = false ∧ (states m).loop ≠ .idle := by
  induction hd : (states n).loop.toIdle using Nat.strong_induction_on generalizing n with
  | _ d ih =>
    intro hforever
    have hidle := (hforever n le_rfl).2
    obtain ⟨m, hm, hstays, -, hmv⟩ := h.leaves_phase hinv (hfair _ hidle)
    have hmv := hmv.resolve_right (hreset m hm)
    obtain ⟨s, hs, hloop, hrun, e⟩ := h.effect (h.inv hinv hm)
    have hloop := hloop.trans (hstays m hm le_rfl)
    have hnearer := e.nearer_idle (hrun.trans (hforever m hm).1) (hloop ▸ hidle) (hloop ▸ hmv)
    rw [hloop, hd] at hnearer
    exact ih _ hnearer (h.inv hinv (by omega)) (fun k hk => hreset k (by omega)) rfl fun k hk => hforever k (by omega)

/-- Settles O60: the fair phase Wait is left; a loop with RUN at 0 ends, and the step by which it ends is a Check. -/
theorem aClearedRunIsSeenAtCheck : Obligations.AClearedRunIsSeenAtCheck := by
  intro states moves accesses n h hinv hwait
  refine ⟨fun hl => ?_, fun hproceeds hdown hrun hidle hreset => ?_⟩
  · obtain ⟨m, hm, hleaves⟩ := h.leaves_phase hinv (by rw [hl]; exact hwait)
    simp only [hl, Phase.exits, List.mem_cons, List.not_mem_nil, or_false, or_assoc] at hleaves
    exact ⟨m, hm, hleaves⟩
  · have hfair := fun l => fairInPhase_exits (l := l) hwait hproceeds hdown
    rcases holds_forever_or_ends (p := fun k => (states k).run = false ∧ (states k).loop ≠ .idle) (n := n) ⟨hrun, hidle⟩
      with hforever | ⟨m, hm, hstays, hends⟩
    · exact absurd hforever (h.not_loop_forever hinv hfair hreset)
    · obtain ⟨hrunm, hidlem⟩ := hstays m hm le_rfl
      obtain ⟨s, hs, hloop, hruns, e⟩ := h.effect (h.inv hinv hm)
      have hrun' : (states (m + 1)).run = false := e.run_cleared hs (hloop ▸ hidlem) (hruns.trans hrunm)
      have hidle' : (states (m + 1)).loop = .idle := by simpa [hrun'] using hends
      obtain ⟨hcheck, hmv⟩ := e.check_of_idle (hreset m hm) (hloop ▸ hidlem) hidle'
      exact ⟨m, hm, fun k hk hkm => (hstays k hk hkm).1, hloop.symm.trans hcheck, hmv, hidle'⟩

end Sys2Proof.Machine
end

section
/-! Proofs. The frames of the packet forms and of the commands (R86, R90), and which host accesses complete (R87). -/

namespace Sys2Proof.Machine

/-! ## The packet forms -/

theorem failDecode_droppedWith (c : ErrCode) (s : State) : droppedWith c s (failDecode c s) := rfl

theorem acceptPacket_acceptedWith (p : Packet) (s : State) : acceptedWith s (acceptPacket p s) := rfl

/-- With L ≤ 12 the decode of every form is TOO_SHORT (R155). -/
theorem exec_form_tooShort {i : Instr} (hi : isForm i = true) {s : State} (hlen : s.bufLen ≤ 12) :
    exec i s = inProcess (.error (.raise .tooShort)) s := by
  cases i with
  | decV2 p cc => simp only [exec, execDecV2, decodeV2, if_pos hlen]
  | decV2X p cc => simp only [exec, execDecV2X, decodeV2X, if_pos hlen]
  | decV0 r => simp only [exec, execDecV0, decodeUnsupported, if_pos hlen]
  | decV1 r => simp only [exec, execDecV1, decodeUnsupported, if_pos hlen]
  | decV3 r => simp only [exec, execDecV3, decodeUnsupported, if_pos hlen]
  | _ => cases hi

/-- Settles O16: a form's next state is a drop or an accept, and outside Process there is none. -/
theorem packetFormsFrame : Obligations.PacketFormsFrame := by
  intro i s hi
  obtain ⟨r, hr⟩ := exec_form hi s
  refine ⟨fun t ht => ?_, fun hl => ?_, fun hl hlen => ?_⟩
  · rw [hr] at ht
    obtain ⟨-, ⟨c, -, rfl⟩ | ⟨p, -, rfl⟩⟩ := inProcess_eq_next ht
    · exact ⟨.inl ⟨c, failDecode_droppedWith c s⟩, fun _ => rfl⟩
    · exact ⟨.inr (acceptPacket_acceptedWith p s), fun _ => rfl⟩
  · rw [hr, inProcess, if_neg hl]
  · rw [exec_form_tooShort hi hlen, inProcess, if_pos hl]
    exact ⟨_, rfl, failDecode_droppedWith .tooShort s⟩

/-! ## The commands -/

/-- Settles O30, for each of the four ways a command ends. -/
theorem commandsFrame : Obligations.CommandsFrame := by
  intro i s hi
  rcases exec_command_cases hi s with he | ⟨-, ⟨g, hg⟩, he⟩ | ⟨-, -, he⟩ | ⟨-, ⟨g, hg⟩, he⟩
  · exact ⟨s, he, rfl, id, fun _ => rfl, fun _ => ⟨rfl, rfl, rfl, rfl⟩⟩
  · refine ⟨_, he, ?_, by simp, by simp, fun hne => ?_⟩
    · rcases startSequence_cases (latchConfig s) with h | ⟨c, -, h⟩ <;> rw [h] <;> rfl
    · exact absurd hg (not_or.2 (hne g))
  · exact ⟨_, he, rfl, by simp, fun _ => rfl, fun _ => ⟨rfl, rfl, rfl, rfl⟩⟩
  · exact ⟨_, he, rfl, by simp, fun _ => rfl, fun hne => absurd hg (hne g).2⟩

/-! ## The host's accesses -/

/-- A command completes and leaves the Host's other accesses (R232). -/
theorem exec_command_completes {i : Instr} (hi : isForm i = false) (s : State) :
    ∃ t, exec i s = .next t ∧ t.hostProgram = s.hostProgram := by
  obtain ⟨t, ht, hframe, -⟩ := commandsFrame i s hi
  exact ⟨t, ht, by rw [hframe]⟩

/-- An access of any offset completes and leaves the Host's other accesses (R41, R88, R232). -/
theorem hostAccess_completes (k : AccessKind) (off : Nat) (s : State) :
    ∃ t, runAction (hostAccess k off s) = .next t ∧ t.hostProgram = s.hostProgram := by
  cases k with
  | read => exact ⟨_, rfl, rfl⟩
  | write w =>
    simp only [hostAccess]
    split
    next r _ =>
      cases r with
      | cmd => exact exec_command_completes (isForm_decodeCommand w) s
      | _ => exact ⟨_, rfl, rfl⟩
    next => exact ⟨_, rfl, rfl⟩

/-- The Host is stuck at an access the block does not take (R87). -/
theorem step_notAdmitted {s : State} {a : HostAccess} {rest : List Move} {more : List HostAccess}
    (hs : s.schedule = .host :: rest) (hp : s.hostProgram = a :: more) (ha : a.admitted s.params = false) :
    step s = .fault .accessNotAdmitted := by
  rw [step_of_schedule hs]
  simp [moveAction, hostStep, hp, ha]

/-- Settles O42: an aligned word of the window has an aligned offset, since REG_BASE is aligned. -/
theorem onlyAlignedWordAccessesHaveAStep : Obligations.OnlyAlignedWordAccessesHaveAStep := by
  rintro s ⟨k, addr, n⟩ rest more ⟨-, hbase, -⟩ hs hp
  refine ⟨fun hn halign hlow hhigh => ?_, fun hbad => step_notAdmitted hs hp ?_⟩
  · obtain ⟨off, rfl⟩ := Nat.exists_eq_add_of_le hlow
    dsimp only at hn halign hhigh
    rw [hn] at hp
    rw [step_hostAccess (by omega) (by omega) hs hp]
    exact hostAccess_completes k off _
  · simp only [HostAccess.admitted, Bool.and_eq_false_iff, decide_eq_false_iff_not]
    dsimp only at hbad
    omega

end Sys2Proof.Machine
end

section
/-! Proofs. No step reads PKTBUF outside the datagram (R82). -/

namespace Sys2Proof.Machine

/-- An outcome with a next state is safe. -/
theorem safe_of_next {o : Host.Outcome State Fault Refusal} {t : State} (h : o = .next t) : Safe o = true := by
  rw [h]
  rfl

/-- The Host reads no byte of PKTBUF (R90). -/
theorem hostStep_safe (s : State) : Safe (runAction (hostStep s)) = true := by
  unfold hostStep
  split
  · rfl
  · split
    · obtain ⟨t, ht, -⟩ := hostAccess_completes _ _ _
      exact safe_of_next ht
    · rfl

/-- Process reads the datagram alone (R158). -/
theorem processStep_safe {s : State} (hf : s.bufferFilled) : Safe (runAction (processStep s)) = true := by
  by_cases hl : s.loop = .process
  · rw [runAction_processStep hl]
    rcases decodePacket_of_filled s.draws hf with ⟨c, hd⟩ | ⟨p, hd⟩ <;> rw [hd] <;> rfl
  · rw [processStep, if_neg hl]
    rfl

/-- Down reads the datagram alone: a window lies inside it (R82). -/
theorem downReadStep_safe {s : State} (h : s.Inv) (w : Window) (k : Nat) :
    Safe (runAction (downReadStep w k s)) = true := by
  unfold downReadStep
  split
  next r hr =>
    split
    next hk =>
      have hend := h.place_le hr w
      obtain ⟨b, -, hb⟩ := byteAt_of_filled h.filled (show (r.place w).1 + k < s.bufLen by omega)
      rw [hb]
      rfl
    next => rfl
  next => rfl

/-- Every move is safe in a state that meets the invariant: the two that read PKTBUF read the datagram, and the rest read no byte of it. -/
theorem moveAction_safe {s : State} (h : s.Inv) (mv : Move) : Safe (runAction (moveAction mv s)) = true := by
  cases mv with
  | host => exact hostStep_safe s
  | process => exact processStep_safe h.filled
  | downRead w k => exact downReadStep_safe h w k
  | bindResp v =>
    simp only [moveAction, bindRespStep]
    split
    · cases v <;> rfl
    · rfl
  | netArrive d =>
    simp only [moveAction, netArriveStep]
    split
    · rfl
    · split <;> rfl
  | netLose k =>
    simp only [moveAction, netLoseStep]
    split <;> rfl
  | check =>
    simp only [moveAction, checkStep]
    split <;> rfl
  | rxDatagram =>
    simp only [moveAction, rxDatagramStep]
    split
    · split <;> rfl
    · rfl
  | rxTimeout =>
    simp only [moveAction, rxTimeoutStep]
    split <;> rfl
  | sinkAck =>
    simp only [moveAction, sinkAckStep]
    split <;> rfl
  | convFatal =>
    simp only [moveAction, convFatalStep]
    split <;> rfl
  | complete =>
    simp only [moveAction, completeStep]
    split <;> rfl
  | reset => rfl

/-- Settles O45: the schedule is no part of the invariant. -/
theorem noStepReadsOutsideTheDatagram : Obligations.NoStepReadsOutsideTheDatagram := by
  intro s h
  cases hs : s.schedule with
  | nil => simp [step, nextAction, hs, Safe]
  | cons mv rest =>
    rw [step_of_schedule hs]
    exact moveAction_safe (h.setUntracked s.cfg s.pend _ _ _ rest _) mv

end Sys2Proof.Machine
end

section
/-! Proofs. The owners of the datapath's elements (R86, R90), and what stays while the Loop is in Dispatch (R95). -/

namespace Sys2Proof.Machine

/-- Only ingress and reset write PKTBUF and BUFLEN (R86). -/
theorem MoveEffect.buffer {s t : State} {mv : Move} (e : MoveEffect s mv t) (hreset : mv ≠ .reset)
    (hrx : mv ≠ .rxDatagram) : t.pktBuf = s.pktBuf ∧ t.bufLen = s.bufLen := by
  cases e with
  | rxTooLong | rxIngest => exact absurd rfl hrx
  | reset => exact absurd rfl hreset
  | _ => simp

/-- Only Process and reset write PKT and CUR (R86). -/
theorem MoveEffect.packet {s t : State} {mv : Move} (e : MoveEffect s mv t) (hreset : mv ≠ .reset)
    (hprocess : mv ≠ .process) : t.pkt = s.pkt ∧ t.cur = s.cur := by
  cases e with
  | processDrop | processAccept => exact absurd rfl hprocess
  | reset => exact absurd rfl hreset
  | _ => simp

/-- Only Process, Down's answers and reset write PKT_VALID and the offer (R54, R285). -/
theorem MoveEffect.offered {s t : State} {mv : Move} (e : MoveEffect s mv t) (hreset : mv ≠ .reset)
    (hprocess : mv ≠ .process) (hack : mv ≠ .sinkAck) (hfatal : mv ≠ .convFatal) :
    t.pktValid = s.pktValid ∧ t.offer = s.offer := by
  cases e with
  | processDrop | processAccept => exact absurd rfl hprocess
  | sinkAck => exact absurd rfl hack
  | convFatal => exact absurd rfl hfatal
  | reset => exact absurd rfl hreset
  | _ => simp

/-- No host access writes LOOP (R90). -/
theorem MoveEffect.host_loop {s t : State} (e : MoveEffect s .host t) : t.loop = s.loop := by
  cases e <;> simp

/-- Settles O48: the elements, each from the effects that write it. -/
theorem datapathHasOneOwner : Obligations.DatapathHasOneOwner := by
  intro s t mv rest hs hstep hreset
  have e := step_effect hs hstep
  refine ⟨e.buffer hreset, e.packet hreset, fun hprocess hack hfatal => (e.offered hreset hprocess hack hfatal).1, ?_⟩
  rintro rfl
  exact e.host_loop

/-- A step that stays in Dispatch is none of those that write the offer, PKT or PKTBUF (R280). -/
theorem MoveEffect.stays_in_dispatch {s t : State} {mv : Move} (e : MoveEffect s mv t) (hl : s.loop = .dispatch)
    (hl' : t.loop = .dispatch) :
    mv ≠ .rxDatagram ∧ mv ≠ .process ∧ mv ≠ .sinkAck ∧ mv ≠ .convFatal ∧ mv ≠ .reset := by
  cases e with
  | rxTooLong h | rxIngest h | processDrop h | processAccept h => simp [hl] at h
  | sinkAck | convFatal | reset => simp at hl'
  | _ => simp

/-- Settles O54: what stays in Dispatch owns none of the elements. -/
theorem dispatchedRecordIsStable : Obligations.DispatchedRecordIsStable := by
  intro s t _ hstep hl hl'
  obtain ⟨mv, rest, hs⟩ := step_schedule hstep
  have e := step_effect hs hstep
  obtain ⟨hrx, hprocess, hack, hfatal, hreset⟩ := e.stays_in_dispatch hl hl'
  obtain ⟨hbuf, hlen⟩ := e.buffer hreset hrx
  refine ⟨(e.offered hreset hprocess hack hfatal).2, (e.packet hreset hprocess).1, hlen, fun a => by rw [hbuf]⟩

end Sys2Proof.Machine
end

section
/-! Proofs. From Stopping in any phase a few moves of the loop, of Down and of block control end the session (R93, R94, R241). -/

namespace Sys2Proof.Machine

/-! ## Stop completion -/

/-- What a stop that completes leaves, with a restart or without (R241). -/
theorem completeStop_ends (s : State) :
    (completeStop s).session ≠ .stopping ∧ (completeStop s).loop = s.loop ∧ (completeStop s).perfHint = false ∧
      (completeStop s).sockBound = false ∧ (completeStop s).schedule = s.schedule := by
  unfold completeStop
  split
  · exact ⟨startSequence_ne_stopping rfl, by simp, by simp, by simp, by simp⟩
  · simp

/-- In Stopping with LOOP Idle the completion is enabled (R241). -/
theorem runAction_completeStep {s : State} (hs : s.session = .stopping) (hl : s.loop = .idle) :
    runAction (completeStep s) = .next (completeStop s) := by
  rw [completeStep, if_pos ⟨hs, hl⟩, runAction_becomes]

/-! ## The moves that end a session -/

/-- The moves of Loop, Timer, Down and block control that wait for nothing. -/
def Move.ends (mv : Move) : Prop :=
  mv = .check ∨ mv = .rxTimeout ∨ mv = .process ∨ mv = .sinkAck ∨ mv = .complete

/-- At most `n` such moves, whatever is scheduled after them, end the session that the state is in. -/
def State.EndsWithin (n : Nat) (s : State) : Prop :=
  ∀ rest, ∃ moves t, moves.length ≤ n ∧ (∀ mv ∈ moves, mv.ends) ∧
    Sys2Proof.core.run moves.length { s with schedule := moves ++ rest } = .next t ∧
    State.session t ≠ .stopping ∧ t.loop = .idle ∧ t.perfHint = false ∧ t.sockBound = false ∧ t.schedule = rest

theorem State.EndsWithin.mono {s : State} {n k : Nat} (h : s.EndsWithin n) (hk : n ≤ k) : s.EndsWithin k := by
  intro rest
  obtain ⟨moves, t, hlen, ht⟩ := h rest
  exact ⟨moves, t, hlen.trans hk, ht⟩

/-- With a move put at the schedule's head, the step is that move (R19). -/
theorem step_scheduled {s t : State} {mv : Move} {moves : List Move}
    (h : runAction (moveAction mv { s with schedule := moves }) = .next t) :
    step { s with schedule := mv :: moves } = .next t :=
  (step_of_schedule rfl).trans h

/-- A move that leads, whatever is scheduled, to a state the session of which ends. -/
theorem State.EndsWithin.cons {s u : State} {n : Nat} {mv : Move} (hmv : mv.ends)
    (hstep : ∀ moves, runAction (moveAction mv { s with schedule := moves }) = .next { u with schedule := moves })
    (h : u.EndsWithin n) : s.EndsWithin (n + 1) := by
  intro rest
  obtain ⟨moves, t, hlen, hmoves, hrun, ht⟩ := h rest
  exact ⟨mv :: moves, t, Nat.succ_le_succ hlen, List.forall_mem_cons.2 ⟨hmv, hmoves⟩,
    coreRun_succ.2 ⟨_, step_scheduled (hstep _), hrun⟩, ht⟩

/-- In Idle the stop completes (R241). -/
theorem endsWithin_of_idle {s : State} (hs : s.session = .stopping) (hl : s.loop = .idle) : s.EndsWithin 1 := by
  intro rest
  obtain ⟨hsession, hloop, hends⟩ := completeStop_ends { s with schedule := rest }
  exact ⟨[.complete], _, le_rfl, by simp [Move.ends],
    coreRun_succ.2 ⟨_, step_scheduled (runAction_completeStep hs hl), rfl⟩, hsession, hloop.trans hl, hends⟩

/-- Check sees RUN at 0 and the loop is in Idle (R281). -/
theorem endsWithin_of_check {s : State} (hs : s.session = .stopping) (hrun : s.run = false) (hl : s.loop = .check) :
    s.EndsWithin 2 :=
  .cons (mv := .check) (u := { s with loop := .idle }) (by simp [Move.ends])
    (fun moves => by simp [moveAction, checkStep, hl, hrun]) (endsWithin_of_idle hs rfl)

/-- RX_TIMEOUT needs no datagram (R283). -/
theorem endsWithin_of_wait {s : State} (hs : s.session = .stopping) (hrun : s.run = false) (hl : s.loop = .wait) :
    s.EndsWithin 3 :=
  .cons (mv := .rxTimeout) (u := { s with loop := .check }) (by simp [Move.ends])
    (fun moves => by simp [moveAction, rxTimeoutStep, hl]) (endsWithin_of_check hs hrun rfl)

/-- Down's answer ends the dispatch (R286). -/
theorem endsWithin_of_dispatch {s : State} (hs : s.session = .stopping) (hrun : s.run = false)
    (hl : s.loop = .dispatch) : s.EndsWithin 3 :=
  .cons (mv := .sinkAck) (u := endDispatch s) (by simp [Move.ends])
    (fun moves => by simp [moveAction, sinkAckStep, hl, endDispatch]) (endsWithin_of_check hs hrun rfl)

/-- Process drops the datagram or offers its packet to Down (R284, R285). -/
theorem endsWithin_of_process {s : State} (hs : s.session = .stopping) (hrun : s.run = false) (hl : s.loop = .process)
    (hf : s.bufferFilled) : s.EndsWithin 4 := by
  have hstep := fun moves => runAction_processStep (s := { s with schedule := moves }) hl
  rcases decodePacket_of_filled s.draws hf with ⟨c, hd⟩ | ⟨p, hd⟩
  · have hdrop : s.EndsWithin 3 :=
      .cons (mv := .process) (u := failDecode c s) (by simp [Move.ends])
        (fun moves => (hstep moves).trans (congrArg (processResult · _) hd)) (endsWithin_of_check hs hrun rfl)
    exact hdrop.mono (by decide)
  · exact .cons (mv := .process) (u := acceptPacket p s) (by simp [Move.ends])
      (fun moves => (hstep moves).trans (congrArg (processResult · _) hd)) (endsWithin_of_dispatch hs hrun rfl)

/-- Settles O59, phase by phase: each leads to one that is nearer to Idle. -/
theorem aStopCanComplete : Obligations.AStopCanComplete := by
  intro s rest h hs
  have hrun := h.run_of_stopping hs
  have hends : s.EndsWithin 4 := by
    cases hl : s.loop with
    | idle => exact (endsWithin_of_idle hs hl).mono (by decide)
    | check => exact (endsWithin_of_check hs hrun hl).mono (by decide)
    | wait => exact (endsWithin_of_wait hs hrun hl).mono (by decide)
    | process => exact endsWithin_of_process hs hrun hl h.filled
    | dispatch => exact (endsWithin_of_dispatch hs hrun hl).mono (by decide)
  exact hends rest

end Sys2Proof.Machine
end

section
/-! Proofs. The two code spaces, row by row: the fields of byte 0 and of a command word, what each row decodes to, and the round trips
(R111, R120, R125, R126). -/

namespace Sys2Proof

/-! ## The fields of byte 0 -/

@[simp] theorem byte0Version_append (v : BitVec 2) (rest : BitVec 6) : byte0Version (v ++ rest) = v :=
  BitVec.extractLsb'_append_eq_left

@[simp] theorem byte0Rest_append (v : BitVec 2) (rest : BitVec 6) : byte0Rest (v ++ rest) = rest :=
  BitVec.extractLsb'_append_eq_right

/-- Byte 0 is V and the bits below it (R111). -/
theorem byte0_append (b : Byte) : byte0Version b ++ byte0Rest b = b := by
  revert b
  decide

@[simp] theorem byte0Version_formByte (p x : Bool) (cc : BitVec 4) : byte0Version (formByte p x cc) = 2 := by
  revert p x cc
  decide

@[simp] theorem byte0Padding_formByte (p x : Bool) (cc : BitVec 4) : byte0Padding (formByte p x cc) = p := by
  revert p x cc
  decide

@[simp] theorem byte0Extension_formByte (p x : Bool) (cc : BitVec 4) : byte0Extension (formByte p x cc) = x := by
  revert p x cc
  decide

@[simp] theorem byte0CsrcCount_formByte (p x : Bool) (cc : BitVec 4) : byte0CsrcCount (formByte p x cc) = cc := by
  revert p x cc
  decide

/-- Byte 0 of version 2 is its fields P, X and CC below V (R111). -/
theorem formByte_fields {b : Byte} (hv : byte0Version b = 2) :
    formByte (byte0Padding b) (byte0Extension b) (byte0CsrcCount b) = b := by
  revert b
  decide

/-! ## The packet forms, by V and X -/

section
variable {b : Byte}

theorem decodeForm_v0 (hv : byte0Version b = 0) : decodeForm b = .decV0 (byte0Rest b) := by simp [decodeForm, hv]
theorem decodeForm_v1 (hv : byte0Version b = 1) : decodeForm b = .decV1 (byte0Rest b) := by simp [decodeForm, hv]
theorem decodeForm_v3 (hv : byte0Version b = 3) : decodeForm b = .decV3 (byte0Rest b) := by simp [decodeForm, hv]

theorem decodeForm_v2 (hv : byte0Version b = 2) (hx : byte0Extension b = false) :
    decodeForm b = .decV2 (byte0Padding b) (byte0CsrcCount b) := by simp [decodeForm, hv, hx]

theorem decodeForm_v2X (hv : byte0Version b = 2) (hx : byte0Extension b = true) :
    decodeForm b = .decV2X (byte0Padding b) (byte0CsrcCount b) := by simp [decodeForm, hv, hx]

end

/-- Byte 0 is of one of the five forms (R120). -/
theorem byte0_cases (b : Byte) :
    (byte0Version b = 2 ∧ byte0Extension b = false) ∨ (byte0Version b = 2 ∧ byte0Extension b = true) ∨
      byte0Version b = 0 ∨ byte0Version b = 1 ∨ byte0Version b = 3 := by
  generalize byte0Version b = v, byte0Extension b = x
  revert v x
  decide

/-! ## The commands, by OPCODE -/

section
variable {w : Word}

theorem decodeCommand_nop (h : commandOpcode w = 0) : decodeCommand w = .cmdNop (commandIgnored w) := by
  simp [decodeCommand, h]

theorem decodeCommand_start (h : commandOpcode w = 1) : decodeCommand w = .cmdStart (commandIgnored w) := by
  simp [decodeCommand, h]

theorem decodeCommand_stop (h : commandOpcode w = 2) : decodeCommand w = .cmdStop (commandIgnored w) := by
  simp [decodeCommand, h]

theorem decodeCommand_reconfigure (h : commandOpcode w = 3) : decodeCommand w = .cmdReconfigure (commandIgnored w) := by
  simp [decodeCommand, h]

theorem decodeCommand_rsvdLow (h : 4 ≤ (commandOpcode w).toNat ∧ (commandOpcode w).toNat ≤ 7) :
    decodeCommand w = .cmdRsvdLow (commandOpcode w) (commandIgnored w) := by
  have hop : (commandOpcode w).toNat = 4 ∨ (commandOpcode w).toNat = 5 ∨ (commandOpcode w).toNat = 6 ∨
      (commandOpcode w).toNat = 7 := by omega
  rcases hop with hop | hop | hop | hop <;> simp only [decodeCommand, hop]

theorem decodeCommand_rsvdHigh (h : 8 ≤ (commandOpcode w).toNat) :
    decodeCommand w = .cmdRsvdHigh (commandOpcode w) (commandIgnored w) := by
  obtain ⟨n, hn⟩ := Nat.exists_eq_add_of_le' h
  simp only [decodeCommand, hn]

end

/-- An OPCODE is of one of the six command rows (R126). -/
theorem opcode_cases (op : BitVec 4) :
    op = 0 ∨ op = 1 ∨ op = 2 ∨ op = 3 ∨ (4 ≤ op.toNat ∧ op.toNat ≤ 7) ∨ 8 ≤ op.toNat := by
  revert op
  decide

/-! ## The round trips -/

/-- Settles O1, row by row: the fields of a row's word select the row and are its operands. -/
theorem decodeOfEncodeIsTheInstruction : Obligations.DecodeOfEncodeIsTheInstruction := by
  intro i hwf
  cases i with
  | decV2 p cc => simp [encode, decodeWord, decodeForm_v2]
  | decV2X p cc => simp [encode, decodeWord, decodeForm_v2X]
  | decV0 rest => simp [encode, decodeWord, decodeForm_v0]
  | decV1 rest => simp [encode, decodeWord, decodeForm_v1]
  | decV3 rest => simp [encode, decodeWord, decodeForm_v3]
  | cmdNop ign => simp [encode, decodeWord, decodeCommand_nop]
  | cmdStart ign => simp [encode, decodeWord, decodeCommand_start]
  | cmdStop ign => simp [encode, decodeWord, decodeCommand_stop]
  | cmdReconfigure ign => simp [encode, decodeWord, decodeCommand_reconfigure]
  | cmdRsvdLow op ign =>
    have hop : 4 ≤ op.toNat ∧ op.toNat ≤ 7 := of_decide_eq_true hwf
    simp [encode, decodeWord, decodeCommand_rsvdLow, hop]
  | cmdRsvdHigh op ign =>
    have hop : 8 ≤ op.toNat := of_decide_eq_true hwf
    simp [encode, decodeWord, decodeCommand_rsvdHigh, hop]

/-- A packet form keeps the bits of its byte 0 (R111, R120). -/
theorem encode_decodeForm (b : Byte) : encode (decodeForm b) = .form b := by
  rcases byte0_cases b with ⟨hv, hx⟩ | ⟨hv, hx⟩ | hv | hv | hv
  · rw [decodeForm_v2 hv hx, encode, ← hx, formByte_fields hv]
  · rw [decodeForm_v2X hv hx, encode, ← hx, formByte_fields hv]
  · rw [decodeForm_v0 hv, encode, ← BitVec.ofNat_eq_ofNat, ← hv, byte0_append]
  · rw [decodeForm_v1 hv, encode, ← BitVec.ofNat_eq_ofNat, ← hv, byte0_append]
  · rw [decodeForm_v3 hv, encode, ← BitVec.ofNat_eq_ofNat, ← hv, byte0_append]

/-- A command keeps the bits of its word (R125, R126). -/
theorem encode_decodeCommand (w : Word) : encode (decodeCommand w) = .command w := by
  rcases opcode_cases (commandOpcode w) with h | h | h | h | h | h
  · rw [decodeCommand_nop h, encode, ← h, commandWord_fields]
  · rw [decodeCommand_start h, encode, ← h, commandWord_fields]
  · rw [decodeCommand_stop h, encode, ← h, commandWord_fields]
  · rw [decodeCommand_reconfigure h, encode, ← h, commandWord_fields]
  · rw [decodeCommand_rsvdLow h, encode, commandWord_fields]
  · rw [decodeCommand_rsvdHigh h, encode, commandWord_fields]

theorem wf_decodeForm (b : Byte) : (decodeForm b).wf = true := by
  rcases byte0_cases b with ⟨hv, hx⟩ | ⟨hv, hx⟩ | hv | hv | hv
  · rw [decodeForm_v2 hv hx, Instr.wf]
  · rw [decodeForm_v2X hv hx, Instr.wf]
  · rw [decodeForm_v0 hv, Instr.wf]
  · rw [decodeForm_v1 hv, Instr.wf]
  · rw [decodeForm_v3 hv, Instr.wf]

theorem wf_decodeCommand (w : Word) : (decodeCommand w).wf = true := by
  rcases opcode_cases (commandOpcode w) with h | h | h | h | h | h
  · rw [decodeCommand_nop h, Instr.wf]
  · rw [decodeCommand_start h, Instr.wf]
  · rw [decodeCommand_stop h, Instr.wf]
  · rw [decodeCommand_reconfigure h, Instr.wf]
  · rw [decodeCommand_rsvdLow h]
    exact decide_eq_true h
  · rw [decodeCommand_rsvdHigh h]
    exact decide_eq_true h

/-- Settles O2: each code space by its own two facts. -/
theorem encodeOfDecodeIsTheWord : Obligations.EncodeOfDecodeIsTheWord := by
  intro c
  cases c with
  | form b => exact ⟨wf_decodeForm b, encode_decodeForm b⟩
  | command w => exact ⟨wf_decodeCommand w, encode_decodeCommand w⟩

/-- Settles O3: each word is decoded. -/
theorem wordsFromTheSpecDecode : Obligations.WordsFromTheSpecDecode := by
  unfold Obligations.WordsFromTheSpecDecode
  decide

end Sys2Proof
end

section
/-! Proofs. The masks of the opcode table: what each selects, and that no word has the masked bits of two rows (R120, R126). -/

namespace Sys2Proof

/-! ## The masks of byte 0 -/

/-- The mask of the forms without X tests V alone (R120). -/
theorem byte0_maskVersion (b : Byte) (v : BitVec 2) : b &&& 0xC0 = v ++ 0#6 ↔ byte0Version b = v := by
  have hmask : b &&& 0xC0 = byte0Version b ++ 0#6 := by
    revert b
    decide
  constructor
  · intro h
    rw [← byte0Version_append v 0#6, ← h, hmask, byte0Version_append]
  · rintro rfl
    exact hmask

/-- The mask of the forms of version 2 tests V and X (R120). -/
theorem byte0_maskVersionExtension (b : Byte) (x : Bool) :
    b &&& 0xD0 = formByte false x 0 ↔ byte0Version b = 2 ∧ byte0Extension b = x := by
  revert b x
  decide

/-- Settles O4: each mask is a condition on V and X, and `byte0_cases` says that one of them holds. -/
theorem byteZeroSelectsThePacketForm : Obligations.ByteZeroSelectsThePacketForm := by
  intro b d
  have hv2 : b &&& 0xD0 = 0x80 ↔ byte0Version b = 2 ∧ byte0Extension b = false := byte0_maskVersionExtension b false
  have hv2X : b &&& 0xD0 = 0x90 ↔ byte0Version b = 2 ∧ byte0Extension b = true := byte0_maskVersionExtension b true
  have hv0 : b &&& 0xC0 = 0x00 ↔ byte0Version b = 0 := byte0_maskVersion b 0
  have hv1 : b &&& 0xC0 = 0x40 ↔ byte0Version b = 1 := byte0_maskVersion b 1
  have hv3 : b &&& 0xC0 = 0xC0 ↔ byte0Version b = 3 := byte0_maskVersion b 3
  rw [hv2, hv2X, hv0, hv1, hv3]
  refine ⟨rfl, ?_, ?_, fun h => decodeForm_v2 h.1 h.2, fun h => decodeForm_v2X h.1 h.2, decodeForm_v0, decodeForm_v1,
    decodeForm_v3, byte0_cases b⟩
  · intro hd
    exact if_pos (by rw [List.length_cons]; omega)
  · intro hd
    exact if_neg (by rw [List.length_cons]; omega)

/-! ## The masks of a command word -/

/-- The mask of a command row with one OPCODE selects it (R126). -/
theorem command_maskOpcode (w : Word) (op : BitVec 4) : w &&& 0xF = op.setWidth 32 ↔ commandOpcode w = op := by
  have hmask := command_mask w 0xF op
  rwa [show (0xF : BitVec 4) = BitVec.allOnes 4 from rfl, BitVec.and_allOnes] at hmask

/-- The masks of the two reserved rows select ranges of OPCODEs (R126). -/
theorem opcode_maskReserved (op : BitVec 4) :
    (op &&& 0xC = 0x4 ↔ 4 ≤ op.toNat ∧ op.toNat ≤ 7) ∧ (op &&& 0x8 = 0x8 ↔ 8 ≤ op.toNat) := by
  revert op
  decide

/-- Settles O5: each mask is a condition on OPCODE, and each condition is its row's. -/
theorem opcodeSelectsTheCommand : Obligations.OpcodeSelectsTheCommand := by
  intro w
  obtain ⟨hlow, hhigh⟩ := opcode_maskReserved (commandOpcode w)
  refine ⟨?_, ?_, ?_, ?_, ?_, ?_⟩ <;> intro h
  · exact congrArg Except.ok (decodeCommand_nop ((command_maskOpcode w 0).1 h))
  · exact congrArg Except.ok (decodeCommand_start ((command_maskOpcode w 1).1 h))
  · exact congrArg Except.ok (decodeCommand_stop ((command_maskOpcode w 2).1 h))
  · exact congrArg Except.ok (decodeCommand_reconfigure ((command_maskOpcode w 3).1 h))
  · exact congrArg Except.ok (decodeCommand_rsvdLow (hlow.1 ((command_mask w 0xC 4).1 h)))
  · exact congrArg Except.ok (decodeCommand_rsvdHigh (hhigh.1 ((command_mask w 0x8 8).1 h)))

/-! ## The rows exclude each other -/

/-- Two rows of different code spaces, or that ask for different values of a bit both masks hold. -/
def OpcodeRow.conflicts (r q : OpcodeRow) : Prop := r.isForm ≠ q.isForm ∨ r.pattern &&& q.mask ≠ q.pattern &&& r.mask

theorem and_pattern_comm {w m p m' p' : Word} (h : w &&& m = p) (h' : w &&& m' = p') : p &&& m' = p' &&& m := by
  rw [← h, ← h', BitVec.and_assoc, BitVec.and_assoc, BitVec.and_comm m]

/-- No word belongs to two rows that conflict. -/
theorem OpcodeRow.conflicts.not_both {r q : OpcodeRow} (hrq : r.conflicts q) (c : CodeWord) :
    ¬ (r.matches c = true ∧ q.matches c = true) := by
  rintro ⟨hr, hq⟩
  cases c with
  | form b =>
    simp only [OpcodeRow.matches, Bool.and_eq_true, decide_eq_true_eq] at hr hq
    exact hrq.elim (fun h => h (hr.1.trans hq.1.symm)) (fun h => h (and_pattern_comm hr.2 hq.2))
  | command w =>
    simp only [OpcodeRow.matches, Bool.and_eq_true, Bool.not_eq_true', decide_eq_true_eq] at hr hq
    exact hrq.elim (fun h => h (hr.1.trans hq.1.symm)) (fun h => h (and_pattern_comm hr.2 hq.2))

/-- Any two rows of the opcode table conflict. -/
theorem opcodeTable_pairwise_conflicts : opcodeTable.Pairwise OpcodeRow.conflicts := by
  unfold OpcodeRow.conflicts
  decide

/-- A word belongs to at most one row. -/
theorem opcodeTable_row_unique {c : CodeWord} {j k : Nat} (hj : j < opcodeTable.length) (hk : k < opcodeTable.length)
    (hmj : (opcodeTable[j]).matches c = true) (hmk : (opcodeTable[k]).matches c = true) : j = k := by
  have hpair := List.pairwise_iff_getElem.1 opcodeTable_pairwise_conflicts
  rcases Nat.lt_trichotomy j k with hlt | heq | hlt
  · exact absurd ⟨hmj, hmk⟩ ((hpair j k hj hk hlt).not_both c)
  · exact heq
  · exact absurd ⟨hmk, hmj⟩ ((hpair k j hk hj hlt).not_both c)

/-- The words of a well-formed instruction have the bits its row asks for. -/
theorem encode_matches_row (i : Instr) : Laws.TableRow.Statement i := by
  cases i with
  | decV2 p cc => exact Laws.TableRow.decV2 p cc
  | decV2X p cc => exact Laws.TableRow.decV2X p cc
  | decV0 rest => exact Laws.TableRow.decV0 rest
  | decV1 rest => exact Laws.TableRow.decV1 rest
  | decV3 rest => exact Laws.TableRow.decV3 rest
  | cmdNop ign => exact Laws.TableRow.cmdNop ign
  | cmdStart ign => exact Laws.TableRow.cmdStart ign
  | cmdStop ign => exact Laws.TableRow.cmdStop ign
  | cmdReconfigure ign => exact Laws.TableRow.cmdReconfigure ign
  | cmdRsvdLow op ign => exact Laws.TableRow.cmdRsvdLow op ign
  | cmdRsvdHigh op ign => exact Laws.TableRow.cmdRsvdHigh op ign

/-- Settles O6: a word has the bits of the row it decodes to, since encoding gives it back, and no row shares a word with another. -/
theorem everyWordHasExactlyOneRow : Obligations.EveryWordHasExactlyOneRow := by
  intro c k hk
  obtain ⟨hwf, henc⟩ := encodeOfDecodeIsTheWord c
  obtain ⟨r, hr, hmatch⟩ := encode_matches_row (decodeWord c) hwf
  obtain ⟨hrow, rfl⟩ := List.getElem?_eq_some_iff.1 hr
  rw [henc] at hmatch
  constructor
  · exact fun hmk => opcodeTable_row_unique hk hrow hmk hmatch
  · rintro rfl
    exact hmatch

end Sys2Proof
end

section
/-! Proofs. What a command depends on, what a Process step runs, and what the offered record holds (R120, R125, R130, R284, R285). -/

namespace Sys2Proof.Machine

/-- Settles O7: words of the same OPCODE are of the same row, and no command's meaning reads bits [31:4]. -/
theorem commandIgnoresBitsAboveOpcode : Obligations.CommandIgnoresBitsAboveOpcode := by
  intro w w' s hww'
  have hop : commandOpcode w' = commandOpcode w := hww'.symm
  rcases opcode_cases (commandOpcode w) with h | h | h | h | h | h
  · rw [decodeCommand_nop h, decodeCommand_nop (hop.trans h)]
    rfl
  · rw [decodeCommand_start h, decodeCommand_start (hop.trans h)]
    rfl
  · rw [decodeCommand_stop h, decodeCommand_stop (hop.trans h)]
    rfl
  · rw [decodeCommand_reconfigure h, decodeCommand_reconfigure (hop.trans h)]
    rfl
  · rw [decodeCommand_rsvdLow h, decodeCommand_rsvdLow (hop.symm ▸ h)]
    rfl
  · rw [decodeCommand_rsvdHigh h, decodeCommand_rsvdHigh (hop.symm ▸ h)]
    rfl

/-- A datagram that selects a form is longer than 12 bytes, and its byte 0 selects it (R120). -/
theorem decode_datagram_eq_ok {d : List Byte} {i : Instr} (h : decode (.datagram d) = .ok i) :
    12 < d.length ∧ ∃ b, d[0]? = some b ∧ i = decodeForm b := by
  cases d with
  | nil => cases h
  | cons b d =>
    simp only [decode] at h
    split at h
    next => cases h
    next hlen => exact ⟨Nat.not_le.1 hlen, b, rfl, (Except.ok.inj h).symm⟩

/-- Above 12 bytes the Process step runs the form byte 0 selects (R284). -/
theorem processStep_form {s : State} {b : Byte} (hloop : s.loop = .process) (hlen : 12 < s.bufLen)
    (hb : s.pktBuf.read 0 = some b) : processStep s = .run (decodeForm b) s := by
  have hbyte : byteAt s.pktBuf s.bufLen 0 = .ok b := byteAt_eq_ok.2 ⟨by omega, hb⟩
  simp [processStep, hloop, Nat.not_le.2 hlen, hbyte]

/-- Settles O9: the datagram's length is L and its byte 0 is PKTBUF's. -/
theorem stepRunsTheFormOfTheDatagram : Obligations.StepRunsTheFormOfTheDatagram := by
  intro s d i rest hsched hloop hwin hdec
  obtain ⟨hlen, b, hb, rfl⟩ := decode_datagram_eq_ok hdec
  obtain ⟨hL, hread⟩ := Memory.window_eq_some.1 hwin
  rw [hL] at hlen
  have hread0 : s.pktBuf.read 0 = some b := (hread 0 (by omega)).trans hb
  calc step s = runAction (processStep { s with schedule := rest }) := step_of_schedule hsched
    _ = exec (decodeForm b) { s with schedule := rest } :=
      congrArg runAction (processStep_form (s := { s with schedule := rest }) hloop hlen hread0)

/-- The offered record lists exactly csrcCount CSRC entries (R130). -/
theorem dispatchRecord_csrc_length (p : Packet) (st : Stream) : (dispatchRecord p st).csrc.length = p.csrcCount.toNat := by
  have hle : p.csrcCount.toNat ≤ 15 := Nat.le_of_lt_succ p.csrcCount.isLt
  simpa [dispatchRecord] using hle

/-- The offered record's CSRC entries are PKT's, in order (R130). -/
theorem dispatchRecord_csrc_getElem? (p : Packet) (st : Stream) {i : Nat} (h : i < 15) (hi : i < p.csrcCount.toNat) :
    (dispatchRecord p st).csrc[i]? = some p.csrc[i] := by
  simp [dispatchRecord, List.getElem?_take_of_lt hi, h]

/-- Settles O53: in Dispatch the invariant says which record is offered, and it is PKT's field by field. -/
theorem offerCarriesThePacket : Obligations.OfferCarriesThePacket := by
  intro s hinv hloop
  have hoffer : s.offer = some (dispatchRecord s.pkt s.act.stream) := hinv.offer.trans (if_pos hloop)
  exact ⟨_, hoffer, rfl, rfl, rfl, rfl, rfl, rfl, rfl, rfl, rfl, rfl, dispatchRecord_csrc_length _ _,
    fun i h hi => dispatchRecord_csrc_getElem? _ _ h hi, rfl, rfl, rfl, rfl, rfl⟩

end Sys2Proof.Machine
end

section
/-! Proofs. DECODE in the Process step and by version: what it drops, what it never raises or reads, and that the parts of its packet
tile the datagram (R151, R154 to R156, R158, R163, R284). -/

namespace Sys2Proof.Machine

/-! ## Process with a result -/

/-- In Process an error code is a drop (R284). -/
theorem inProcess_drops {r : DecodeResult} {s : State} {c : ErrCode} (hl : s.loop = .process)
    (hr : r = .error (.raise c)) : ∃ t, inProcess r s = .next t ∧ droppedWith c s t :=
  ⟨failDecode c s, by rw [inProcess, if_pos hl, hr, processResult], failDecode_droppedWith c s⟩

/-- In Process a packet is accepted and fills PKT (R284). -/
theorem inProcess_accepts {r : DecodeResult} {s : State} {p : Packet} (hl : s.loop = .process) (hr : r = .ok p) :
    ∃ t, inProcess r s = .next t ∧ acceptedWith s t ∧ t.pkt = p :=
  ⟨acceptPacket p s, by rw [inProcess, if_pos hl, hr, processResult], acceptPacket_acceptedWith p s, rfl⟩

/-! ## The statements -/

theorem decodePacket_tooShort {m : Memory} {len draw : Nat} (h : len ≤ 12) :
    decodePacket m len draw = .error (.raise .tooShort) := if_pos h

/-- Settles O12: the step is the scheduled Process, which is DECODE in Process and nothing outside it. -/
theorem processStepIsDecode : Obligations.ProcessStepIsDecode := by
  intro s rest hs
  rw [step_of_schedule hs]
  constructor
  · exact fun hl => runAction_processStep (s := { s with schedule := rest }) hl
  · intro hl
    rw [moveAction, processStep, if_neg hl, runAction_notEnabled]

/-- Settles O11: the Process step is DECODE, which is TOO_SHORT before any byte is read. -/
theorem shortDatagramIsTooShort : Obligations.ShortDatagramIsTooShort := by
  refine ⟨fun m len draw => decodePacket_tooShort, fun s rest hs hl hlen => ?_⟩
  rw [(processStepIsDecode s rest hs).1 hl, decodePacket_tooShort hlen]
  exact ⟨_, rfl, failDecode_droppedWith .tooShort _⟩

/-- Settles O15: the three forms have one decode, which reads no byte. -/
theorem otherVersionsAreDropped : Obligations.OtherVersionsAreDropped := by
  intro rest i s hi hl hlen
  have hexec : exec i s = inProcess (decodeUnsupported s.bufLen) s := by rcases hi with rfl | rfl | rfl <;> rfl
  rw [hexec]
  exact inProcess_drops hl (if_neg (Nat.not_le.2 hlen))

/-- Settles O18: INVALID_CSRC_COUNT is none of the three codes DECODE raises. -/
theorem invalidCsrcCountIsNeverRaised : Obligations.InvalidCsrcCountIsNeverRaised := by
  intro m len draw h
  rcases decodePacket_eq_error h with hc | hc | hc | ⟨x, hc⟩ <;> cases hc

/-- Settles O19, for any buffer that holds its datagram. -/
theorem decodeNeverReadsOutOfBounds : Obligations.DecodeNeverReadsOutOfBounds :=
  fun _ _ _ _ => decodePacket_ne_noByte

/-- The abstraction of a packet keeps the counts that ByteCount adds (R200). -/
theorem byteCount_abstractPacket {m : Memory} {p : Packet} {q : AbstractPacket} (h : abstractPacket m p = some q) :
    byteCount q = 12 + 4 * p.csrcCount.toNat + p.payloadLength +
      (if p.extension then 4 + p.extensionHeaderLength.toNat else 0) := by
  unfold abstractPacket at h
  split at h
  · obtain rfl := Option.some.inj h
    rfl
  · cases h

/-- With X = 0 a decoded packet's extension length is 0 (R160). -/
theorem extensionHeaderLength_of_decodePacket {m : Memory} {len draw : Nat} {p : Packet}
    (h : decodePacket m len draw = .ok p) (hx : p.extension = false) : p.extensionHeaderLength = 0 := by
  obtain ⟨b, hd, ws, e, -, -, -, -, -, -, rfl, ⟨-, rfl⟩ | ⟨hx', -⟩⟩ := decodePacket_eq_ok h
  · rfl
  · exact absurd hx (by simp [hx'])

/-- Settles O21: the three windows' equations, added up. -/
theorem decodedPacketHasTheDatagramsSize : Obligations.DecodedPacketHasTheDatagramsSize := by
  intro m len draw p h
  obtain ⟨⟨hpayload, hext, hoffset⟩, -⟩ := tiles_of_decodePacket h
  have hsize : 12 + 4 * p.csrcCount.toNat + (if p.extension then 4 + p.extensionHeaderLength.toNat else 0) +
      p.payloadLength = len := by
    cases hx : p.extension with
    | false =>
      have hzero : p.extensionHeaderLength.toNat = 0 := by rw [extensionHeaderLength_of_decodePacket h hx]; rfl
      simp only [hx, Bool.false_eq_true, if_false] at hoffset ⊢
      omega
    | true =>
      simp only [hx, if_true] at hoffset ⊢
      omega
  refine ⟨hsize, fun q hq => ?_⟩
  rw [byteCount_abstractPacket hq]
  omega

end Sys2Proof.Machine
end

section
/-! Proofs. The two forms of version 2 on a buffer that holds its datagram: which parts must fit, and the packet they fill (R152, R153,
R157). -/

namespace Sys2Proof.Machine

section
variable {m : Memory} {len draw : Nat} {cc : BitVec 4}

/-! ## DECODE of version 2 is one of the two forms -/

/-- V = 2, X = 0 (R152). -/
theorem decodePacket_v2 {b : Byte} (hb : byteAt m len 0 = .ok b) (hv : byte0Version b = 2)
    (hx : byte0Extension b = false) :
    decodePacket m len draw = decodeV2 (byte0Padding b) (byte0CsrcCount b) m len draw := by
  simp [decodePacket, decodeV2, hb, hv, hx]

/-- V = 2, X = 1 (R153). -/
theorem decodePacket_v2X {b : Byte} (hb : byteAt m len 0 = .ok b) (hv : byte0Version b = 2)
    (hx : byte0Extension b = true) :
    decodePacket m len draw = decodeV2X (byte0Padding b) (byte0CsrcCount b) m len draw := by
  simp [decodePacket, decodeV2X, hb, hv, hx]

/-! ## The forms, once the header and the CSRC list are read -/

theorem decodeV2_of_parts {hd : FixedHeader} {ws : List Word} {cur : Nat} (p : Bool) (hlen : 12 < len)
    (hhd : readFixedHeader m len = .ok hd) (hws : readCsrcList m len cc = .ok (ws, cur)) :
    decodeV2 p cc m len draw = .ok (buildPacket p false cc hd ws (noExtension cur) len draw) := by
  simp [decodeV2, Nat.not_le.2 hlen, hhd, hws]

theorem decodeV2X_of_parts {hd : FixedHeader} {ws : List Word} {cur : Nat} (p : Bool) (hlen : 12 < len)
    (hhd : readFixedHeader m len = .ok hd) (hws : readCsrcList m len cc = .ok (ws, cur)) :
    decodeV2X p cc m len draw =
      (readExtension m len cur).map fun e => buildPacket p true cc hd ws e len draw := by
  simp only [decodeV2X, if_neg (Nat.not_le.2 hlen), hhd, hws, except_ok_bind]
  cases readExtension m len cur <;> rfl

/-! ## The forms on a buffer that holds its datagram -/

/-- DEC.V2 fails exactly when the CSRC list runs past L (R152). -/
theorem decodeV2_of_filled (p : Bool) (hf : m.filled len) (hlen : 12 < len) :
    (len < 12 + 4 * cc.toNat → decodeV2 p cc m len draw = .error (.raise .bufferTooShort)) ∧
      (12 + 4 * cc.toNat ≤ len → ∃ hd ws, readFixedHeader m len = .ok hd ∧
        readCsrcList m len cc = .ok (ws, 12 + 4 * cc.toNat) ∧
        decodeV2 p cc m len draw =
          .ok (buildPacket p false cc hd ws (noExtension (12 + 4 * cc.toNat)) len draw)) := by
  obtain ⟨hd, hhd⟩ := readFixedHeader_of_filled hf hlen.le
  obtain ⟨hshort, hfits⟩ := readCsrcList_of_filled cc hf hlen
  constructor
  · intro h
    simp [decodeV2, Nat.not_le.2 hlen, hhd, hshort h]
  · intro h
    obtain ⟨ws, hws⟩ := hfits h
    exact ⟨hd, ws, hhd, hws, decodeV2_of_parts p hlen hhd hws⟩

/-- DEC.V2X fails exactly when the CSRC list, the preamble or the body runs past L (R153). -/
theorem decodeV2X_of_filled (p : Bool) (hf : m.filled len) (hlen : 12 < len) :
    (len < 16 + 4 * cc.toNat → decodeV2X p cc m len draw = .error (.raise .bufferTooShort)) ∧
      (16 + 4 * cc.toNat ≤ len → ∃ hid elen : Half,
        memRead m len (12 + 4 * cc.toNat) 2 = .ok hid.toNat ∧ memRead m len (14 + 4 * cc.toNat) 2 = .ok elen.toNat ∧
        (len < 16 + 4 * cc.toNat + elen.toNat → decodeV2X p cc m len draw = .error (.raise .bufferTooShort)) ∧
        (16 + 4 * cc.toNat + elen.toNat ≤ len → ∃ hd ws, readFixedHeader m len = .ok hd ∧
          readCsrcList m len cc = .ok (ws, 12 + 4 * cc.toNat) ∧
          decodeV2X p cc m len draw = .ok (buildPacket p true cc hd ws
            ⟨hid, elen, 16 + 4 * cc.toNat, 16 + 4 * cc.toNat + elen.toNat⟩ len draw))) := by
  obtain ⟨hd, hhd⟩ := readFixedHeader_of_filled hf hlen.le
  obtain ⟨hshort, hfits⟩ := readCsrcList_of_filled cc hf hlen
  have hpreamble : 12 + 4 * cc.toNat + 4 = 16 + 4 * cc.toNat := by omega
  have helen : 12 + 4 * cc.toNat + 2 = 14 + 4 * cc.toNat := by omega
  constructor
  · intro h
    by_cases hroom : len < 12 + 4 * cc.toNat
    · simp [decodeV2X, Nat.not_le.2 hlen, hhd, hshort hroom]
    · obtain ⟨ws, hws⟩ := hfits (Nat.not_lt.1 hroom)
      rw [decodeV2X_of_parts p hlen hhd hws, (readExtension_of_filled hf (Nat.not_lt.1 hroom)).1 (by omega)]
      rfl
  · intro h
    have hroom : 12 + 4 * cc.toNat ≤ len := by omega
    obtain ⟨ws, hws⟩ := hfits hroom
    obtain ⟨hid, elen, h1, h2, hbodyShort, hbody⟩ := (readExtension_of_filled hf hroom).2 (by omega)
    rw [hpreamble] at hbodyShort hbody
    rw [helen] at h2
    rw [decodeV2X_of_parts p hlen hhd hws]
    refine ⟨hid, elen, h1, h2, fun h => ?_, fun h => ⟨hd, ws, hhd, hws, ?_⟩⟩
    · rw [hbodyShort h]
      rfl
    · rw [hbody h]
      rfl

/-- The packet built of the parts read has the datagram's header fields and CSRC entries (R112 to R114). -/
theorem buildPacket_headerFrom {hd : FixedHeader} {ws : List Word} {cur : Nat} (p x : Bool) (e : ExtensionBlock)
    (hlen : 12 < len) (hhd : readFixedHeader m len = .ok hd) (hws : readCsrcList m len cc = .ok (ws, cur)) :
    (buildPacket p x cc hd ws e len draw).headerFrom m len := by
  obtain ⟨hbyte1, hseq, hts, hssrc⟩ := readFixedHeader_eq_ok hhd
  obtain ⟨-, -, hcount, hwords⟩ := readCsrcList_eq_ok hws hlen.le
  refine ⟨hbyte1, hseq, hts, hssrc, fun i h hi => ?_⟩
  have hi : i < ws.length := hcount.symm ▸ hi
  rw [buildPacket_csrc, csrcFile_getElem h hi]
  exact hwords i hi

end

/-! ## The statements -/

/-- Settles O13: DEC.V2 is Process with the decode of `decodeV2_of_filled`. -/
theorem decV2FillsThePacket : Obligations.DecV2FillsThePacket := by
  intro p cc s hl hlen hf
  obtain ⟨hshort, hfits⟩ := decodeV2_of_filled (draw := s.draws) (cc := cc) p hf hlen
  refine ⟨fun h => inProcess_drops hl (hshort h), fun h => ?_⟩
  obtain ⟨hd, ws, hhd, hws, hok⟩ := hfits h
  obtain ⟨t, ht, hacc, hpkt⟩ := inProcess_accepts hl hok
  refine ⟨t, ht, hacc, ?_⟩
  rw [hpkt]
  exact ⟨buildPacket_headerFrom p false _ hlen hhd hws, rfl, rfl, rfl, rfl, rfl, rfl, rfl, rfl, rfl⟩

/-- Settles O14: DEC.V2X is Process with the decode of `decodeV2X_of_filled`. -/
theorem decV2XFillsThePacket : Obligations.DecV2XFillsThePacket := by
  intro p cc s hl hlen hf
  obtain ⟨hshort, hfits⟩ := decodeV2X_of_filled (draw := s.draws) (cc := cc) p hf hlen
  refine ⟨fun h => inProcess_drops hl (hshort h), fun h => ?_⟩
  obtain ⟨hid, elen, hreadId, hreadLen, hbodyShort, hbody⟩ := hfits h
  refine ⟨elen.toNat, elen.isLt, hreadLen, fun h => inProcess_drops hl (hbodyShort h), fun h => ?_⟩
  obtain ⟨hd, ws, hhd, hws, hok⟩ := hbody h
  obtain ⟨t, ht, hacc, hpkt⟩ := inProcess_accepts hl hok
  refine ⟨t, ht, hacc, ?_⟩
  rw [hpkt]
  exact ⟨buildPacket_headerFrom p true _ hlen hhd hws, rfl, rfl, rfl, rfl, hreadId, rfl, rfl, rfl, rfl⟩

/-- Settles O17: DECODE is the form of X, and each form says which parts must fit. -/
theorem decodeSucceedsWhenThePartsFit : Obligations.DecodeSucceedsWhenThePartsFit := by
  intro m len draw b hlen hf hb hv cc
  have hbyte : byteAt m len 0 = .ok b := byteAt_eq_ok.2 ⟨by omega, hb⟩
  constructor
  · intro hx
    rw [decodePacket_v2 hbyte hv hx]
    obtain ⟨hshort, hfits⟩ := decodeV2_of_filled (draw := draw) (cc := byte0CsrcCount b) (byte0Padding b) hf hlen
    refine ⟨fun h => ?_, hshort⟩
    obtain ⟨hd, ws, -, -, hok⟩ := hfits h
    exact ⟨_, hok⟩
  · intro hx
    rw [decodePacket_v2X hbyte hv hx]
    obtain ⟨hshort, hfits⟩ := decodeV2X_of_filled (draw := draw) (cc := byte0CsrcCount b) (byte0Padding b) hf hlen
    refine ⟨hshort, fun h => ?_⟩
    obtain ⟨hid, elen, -, hreadLen, hbodyShort, hbody⟩ := hfits h
    have hend : 12 + 4 * cc + (4 + elen.toNat) = 16 + 4 * cc + elen.toNat := by omega
    refine ⟨elen.toNat, hreadLen, ?_⟩
    rw [hend]
    refine ⟨fun h => ?_, hbodyShort⟩
    obtain ⟨hd, ws, -, -, hok⟩ := hbody h
    exact ⟨_, hok⟩

end Sys2Proof.Machine
end

section
/-! Proofs. DECODE depends on the bytes below L alone, and on the draw only in the CSRC slots no entry fills (R53, R150, R164). -/

namespace Sys2Proof.Machine

theorem decodePacket_congr {m m' : Memory} {len : Nat} (h : m.agree m' len) (draw : Nat) :
    decodePacket m len draw = decodePacket m' len draw := by
  simp only [decodePacket, byteAt_congr h, readFixedHeader_congr h, readCsrcList_congr h, readExtension_congr h]

/-- Decodes that go on from the same read with results that agree, agree. -/
theorem sameDecode_bind {α : Type} {x : Except DecodeStop α} {f g : α → DecodeResult}
    (h : ∀ a, x = .ok a → sameDecode (f a) (g a)) : sameDecode (x >>= f) (x >>= g) := by
  cases x with
  | ok a => exact h a rfl
  | error e => exact rfl

/-- Packets built of the same parts with different draws differ only past the CSRC list (R53). -/
theorem sameDecode_buildPacket (p x : Bool) {cc : BitVec 4} (hd : FixedHeader) {ws : List Word} (e : ExtensionBlock)
    (len draw draw' : Nat) (hws : ws.length = cc.toNat) :
    sameDecode (.ok (buildPacket p x cc hd ws e len draw)) (.ok (buildPacket p x cc hd ws e len draw')) := by
  refine ⟨rfl, fun i h hi => ?_⟩
  have hi : i < ws.length := hws.symm ▸ hi
  rw [buildPacket_csrc, buildPacket_csrc, csrcFile_getElem h hi, csrcFile_getElem h hi]

/-- Two decodes of one buffer agree whatever is drawn. -/
theorem sameDecode_draws (m : Memory) (len draw draw' : Nat) :
    sameDecode (decodePacket m len draw) (decodePacket m len draw') := by
  unfold decodePacket
  split
  next => exact rfl
  next hlen =>
    refine sameDecode_bind fun b _ => ?_
    split
    next => exact rfl
    next =>
      refine sameDecode_bind fun hd _ => sameDecode_bind fun ⟨ws, cur⟩ hws => ?_
      obtain ⟨-, -, hcount, -⟩ := readCsrcList_eq_ok hws (by omega)
      dsimp only
      split
      next => exact sameDecode_bind fun e _ => sameDecode_buildPacket _ _ _ _ _ _ _ hcount
      next => exact sameDecode_buildPacket _ _ _ _ _ _ _ hcount

/-- Settles O20: the first buffer's bytes below L are the second's, and the draw does not matter. -/
theorem decodeDependsOnTheDatagramAlone : Obligations.DecodeDependsOnTheDatagramAlone := by
  intro m m' len draw draw' h
  rw [decodePacket_congr h]
  exact sameDecode_draws m' len draw draw'

end Sys2Proof.Machine
end

section
/-! Proofs. What the reads of a decode give on a datagram, from the bytes that stand in the datagram at their index (R80, R112 to R115). -/

namespace Sys2Proof.Machine

/-! ## The bytes of a field -/

theorem be16_toNat (v : Half) : (v.extractLsb' 8 8).toNat * 2 ^ 8 + (v.extractLsb' 0 8).toNat = v.toNat := by
  have hv := v.isLt
  simp only [BitVec.extractLsb'_toNat, Nat.shiftRight_eq_div_pow]
  omega

theorem be32_toNat (v : Word) :
    (v.extractLsb' 24 8).toNat * 2 ^ 24 + (v.extractLsb' 16 8).toNat * 2 ^ 16 + (v.extractLsb' 8 8).toNat * 2 ^ 8 +
      (v.extractLsb' 0 8).toNat = v.toNat := by
  have hv := v.isLt
  simp only [BitVec.extractLsb'_toNat, Nat.shiftRight_eq_div_pow]
  omega

@[simp] theorem be16_length (v : Half) : (be16 v).length = 2 := rfl

@[simp] theorem be32_length (v : Word) : (be32 v).length = 4 := rfl

@[simp] theorem flatMap_be32_length (ws : List Word) : (ws.flatMap be32).length = 4 * ws.length := by
  simp [List.length_flatMap, Nat.mul_comm]

/-! ## Reads of a datagram -/

section
variable {d rest : List Byte} {a : Nat}

/-- What follows the bytes at an index stands at the index after them. -/
theorem drop_add_of_drop {l : List Byte} (h : d.drop a = l ++ rest) : d.drop (a + l.length) = rest := by
  rw [← List.drop_drop, h, List.drop_left]

/-- Bytes at an index end inside the datagram. -/
theorem add_length_le_of_drop {l : List Byte} (h : d.drop a = l ++ rest) (hl : 0 < l.length) :
    a + l.length ≤ d.length := by
  have hlen : d.length - a = l.length + rest.length := by simpa using congrArg List.length h
  omega

/-- PKTBUF reads the bytes that stand at an index. -/
theorem read_memoryOf_of_drop {l : List Byte} (h : d.drop a = l ++ rest) {k : Nat} (hk : k < l.length) :
    (memoryOf d).read (a + k) = l[k]? := by
  rw [read_memoryOf, ← List.getElem?_drop, h, List.getElem?_append_left hk]

theorem byteAt_memoryOf {b : Byte} (h : d.drop a = [b] ++ rest) : byteAt (memoryOf d) d.length a = .ok b :=
  byteAt_eq_ok.2 ⟨add_length_le_of_drop h Nat.one_pos, read_memoryOf_of_drop h Nat.one_pos⟩

/-- A 16-bit field is read back from its bytes (R15, R80). -/
theorem readHalf_memoryOf {v : Half} (h : d.drop a = be16 v ++ rest) : readHalf (memoryOf d) d.length a = .ok v := by
  have hread {k : Nat} := read_memoryOf_of_drop h (k := k)
  rw [readHalf_eq_ok, ← be16_toNat v]
  exact memRead_two (hread (k := 0) (by simp)) (hread (by simp)) (add_length_le_of_drop h (by simp))

/-- A 32-bit field is read back from its bytes (R15, R80). -/
theorem readWord_memoryOf {v : Word} (h : d.drop a = be32 v ++ rest) : readWord (memoryOf d) d.length a = .ok v := by
  have hread {k : Nat} := read_memoryOf_of_drop h (k := k)
  rw [readWord_eq_ok, ← be32_toNat v]
  exact memRead_four (hread (k := 0) (by simp)) (hread (by simp)) (hread (by simp)) (hread (by simp))
    (add_length_le_of_drop h (by simp))

/-- A list of 32-bit values is read back in wire order (R114). -/
theorem readWords_memoryOf {ws : List Word} (h : d.drop a = ws.flatMap be32 ++ rest) :
    readWords (memoryOf d) d.length a ws.length = .ok ws := by
  induction ws generalizing a with
  | nil => rfl
  | cons w ws ih =>
    rw [List.flatMap_cons, List.append_assoc] at h
    have htail := ih (drop_add_of_drop h)
    rw [be32_length] at htail
    rw [List.length_cons, readWords, readWord_memoryOf h, except_ok_bind, htail, except_ok_bind]

/-- A window over bytes that stand in the datagram is those bytes (R55). -/
theorem window_memoryOf {l : List Byte} (h : d.drop a = l ++ rest) : (memoryOf d).window a l.length = some l :=
  Memory.window_eq_some.2 ⟨rfl, fun _ => read_memoryOf_of_drop h⟩

/-- The CSRC list is read back and ends after its last entry (R114). -/
theorem readCsrcList_memoryOf {ws : List Word} {cc : BitVec 4} (hcc : ws.length = cc.toNat)
    (h : d.drop 12 = ws.flatMap be32 ++ rest) :
    readCsrcList (memoryOf d) d.length cc = .ok (ws, 12 + 4 * cc.toNat) := by
  unfold readCsrcList
  rw [if_neg (csrcCount_le cc)]
  split
  next hzero =>
    subst hzero
    obtain rfl := List.length_eq_zero_iff.1 hcc
    rfl
  next hpos =>
    have hpos : 0 < ws.length := by
      rw [hcc]
      exact Nat.pos_of_ne_zero fun h0 => hpos (BitVec.eq_of_toNat_eq h0)
    have hroom := add_length_le_of_drop h (by simpa using hpos)
    rw [flatMap_be32_length, hcc] at hroom
    rw [if_neg (by omega), ← hcc, readWords_memoryOf h, except_ok_bind]

/-- The extension block is read back: its header fields and the place of its body (R115). -/
theorem readExtension_memoryOf {hid elen : Half} {body : List Byte} (hbody : body.length = elen.toNat)
    (h : d.drop a = be16 hid ++ (be16 elen ++ (body ++ rest))) :
    readExtension (memoryOf d) d.length a = .ok ⟨hid, elen, a + 4, a + 4 + elen.toNat⟩ := by
  have hlenAt : d.drop (a + 2) = be16 elen ++ (body ++ rest) := drop_add_of_drop h
  have hend := add_length_le_of_drop (l := be16 hid ++ (be16 elen ++ body)) (rest := rest)
    (by simpa only [List.append_assoc] using h) (by simp)
  simp only [List.length_append, be16_length] at hend
  unfold readExtension
  rw [if_neg (by omega), readHalf_memoryOf h, except_ok_bind, readHalf_memoryOf hlenAt, except_ok_bind,
    if_neg (by omega)]

end
end Sys2Proof.Machine
end

section
/-! Proofs. Encode of an abstract packet: its length, its parts where DECODE reads them, and the round trip (R111, R112, R200 to R205). -/

namespace Sys2Proof.Machine

/-! ## The bytes of an encoding -/

@[simp] theorem byte1Marker_encodeByte1 (q : AbstractPacket) : byte1Marker (encodeByte1 q) = q.marker := by
  rw [byte1Marker, encodeByte1, BitVec.getLsbD_append]
  simp

@[simp] theorem byte1PayloadType_encodeByte1 (q : AbstractPacket) : byte1PayloadType (encodeByte1 q) = q.payloadType :=
  BitVec.extractLsb'_append_eq_right

/-- Byte 0 of a packet of version 2 is the byte 0 of its form (R111). -/
theorem encodeByte0_of_version {q : AbstractPacket} (hv : q.version = 2) :
    encodeByte0 q = formByte q.padding q.extension (BitVec.ofNat 4 q.csrcCount) := by
  rw [encodeByte0, hv]
  rfl

/-- After the 12 bytes of the fixed header stand the CSRC list, the extension block and the payload (R203, lines 7 to 10). -/
theorem encodeBytes_drop_twelve (q : AbstractPacket) :
    (encodeBytes q).drop 12 = q.csrc.flatMap be32 ++ (encodeExtension q ++ q.payload.getD []) := by
  simp [encodeBytes, be16, be32]

/-- After the CSRC list stand the extension block and the payload (R203, lines 8 to 10). -/
theorem encodeBytes_drop_csrcEnd {q : AbstractPacket} (hl : q.csrc.length = q.csrcCount) :
    (encodeBytes q).drop (12 + 4 * q.csrcCount) = encodeExtension q ++ q.payload.getD [] := by
  rw [← hl, ← flatMap_be32_length]
  exact drop_add_of_drop (encodeBytes_drop_twelve q)

theorem encodeExtension_length {q : AbstractPacket} (h : q.extension = true → q.ext.length = q.extensionHeaderLength) :
    (encodeExtension q).length = if q.extension then 4 + q.extensionHeaderLength else 0 := by
  unfold encodeExtension
  split
  next hx => simp only [List.length_append, be16_length, h hx]
  next => rfl

/-- The encoding has ByteCount bytes (R204). -/
theorem encodeBytes_length {q : AbstractPacket} (h : q.encodable) (hp : q.payload ≠ none ∨ q.payloadLength = 0) :
    (encodeBytes q).length = byteCount q := by
  obtain ⟨-, hcsrc, hext, -, hpayload⟩ := h
  have hpayloadLength : (q.payload.getD []).length = q.payloadLength := by
    cases hd : q.payload with
    | some d => exact hpayload d hd
    | none => exact (hp.resolve_left (absurd hd)).symm
  simp only [encodeBytes, byteCount, List.length_append, be16_length, be32_length, flatMap_be32_length, hcsrc,
    encodeExtension_length hext, hpayloadLength, List.length_cons, List.length_nil]
  omega

/-- Encode succeeds at every sufficient capacity where the payload is there (R203). -/
theorem encodePacket_eq_ok {q : AbstractPacket} {cap : Nat} (h : q.encodable)
    (hp : q.payload ≠ none ∨ q.payloadLength = 0) (hcap : byteCount q ≤ cap) :
    encodePacket q cap = .ok (encodeBytes q) := by
  have hthere : ¬ (0 < q.payloadLength ∧ q.payload = none) := by
    rintro ⟨hpos, hnone⟩
    exact hp.elim (fun hp => hp hnone) (fun h0 => absurd h0 hpos.ne')
  rw [encodePacket, if_pos h, if_neg hthere, if_neg (Nat.not_lt.2 hcap)]

/-! ## Valid packets -/

/-- A valid packet's payload is there (R201, clause 4). -/
theorem AbstractPacket.valid.payload_ne_none {q : AbstractPacket} (h : q.valid) : q.payload ≠ none := by
  obtain ⟨-, -, -, ⟨d, hd, -⟩, -⟩ := h
  simp [Option.mem_def.1 hd]

/-- Encode is defined on every valid packet (R202). -/
theorem AbstractPacket.valid.encodable {q : AbstractPacket} (h : q.valid) : q.encodable := by
  obtain ⟨-, ⟨hmax, hcsrc⟩, ⟨hext, -⟩, ⟨d, hd, hlen⟩, hwidth⟩ := h
  refine ⟨hmax, hcsrc, hext, hwidth, fun d' hd' => ?_⟩
  rwa [Option.mem_unique hd' hd]

/-- The CSRC list of a valid packet has its declared length (R201, clause 2). -/
theorem AbstractPacket.valid.csrc_length {q : AbstractPacket} (h : q.valid) : q.csrc.length = q.csrcCount := by
  obtain ⟨-, ⟨-, hcsrc⟩, -⟩ := h
  exact hcsrc

/-- The count of a valid packet fits CC (R201, clause 2). -/
theorem AbstractPacket.valid.csrcCount_toNat {q : AbstractPacket} (h : q.valid) :
    (BitVec.ofNat 4 q.csrcCount).toNat = q.csrcCount := by
  obtain ⟨-, ⟨hmax, -⟩, -⟩ := h
  rw [BitVec.toNat_ofNat, Nat.mod_eq_of_lt (Nat.lt_succ_of_le hmax)]

/-- The extension length of a valid packet fits ELEN (R201, clause 5). -/
theorem AbstractPacket.valid.extensionHeaderLength_toNat {q : AbstractPacket} (h : q.valid) :
    (BitVec.ofNat 16 q.extensionHeaderLength).toNat = q.extensionHeaderLength := by
  obtain ⟨-, -, -, -, hwidth⟩ := h
  rw [BitVec.toNat_ofNat, Nat.mod_eq_of_lt hwidth]

/-- The body of a valid packet has its declared length, 0 with X = 0 (R201, clause 3). -/
theorem AbstractPacket.valid.ext_length {q : AbstractPacket} (h : q.valid) : q.ext.length = q.extensionHeaderLength := by
  obtain ⟨-, -, ⟨hext, hnone⟩, -⟩ := h
  cases hx : q.extension with
  | true => exact hext hx
  | false =>
    obtain ⟨-, hzero, hnil⟩ := hnone hx
    rw [hzero, hnil, List.length_nil]

/-! ## The parts DECODE reads from an encoding -/

/-- The fields of bytes 1 to 11 of a packet's encoding. -/
def AbstractPacket.fixedHeader (q : AbstractPacket) : FixedHeader :=
  ⟨q.marker, q.payloadType, q.sequenceNumber, q.timestamp, q.ssrc⟩

/-- The extension block of a valid packet's encoding; with X = 0 it is the empty one. -/
def AbstractPacket.extensionBlock (q : AbstractPacket) : ExtensionBlock where
  headerId := q.extensionHeaderId
  headerLength := BitVec.ofNat 16 q.extensionHeaderLength
  offset := 12 + 4 * q.csrcCount + (if q.extension then 4 else 0)
  cursor := 12 + 4 * q.csrcCount + (if q.extension then 4 else 0) + q.extensionHeaderLength

theorem readFixedHeader_encodeBytes (q : AbstractPacket) :
    readFixedHeader (memoryOf (encodeBytes q)) (encodeBytes q).length = .ok q.fixedHeader := by
  have hbyte1 := byteAt_memoryOf (d := encodeBytes q) (a := 1) (b := encodeByte1 q) rfl
  have hseq := readHalf_memoryOf (d := encodeBytes q) (a := 2) (v := q.sequenceNumber) rfl
  have hts := readWord_memoryOf (d := encodeBytes q) (a := 4) (v := q.timestamp) rfl
  have hssrc := readWord_memoryOf (d := encodeBytes q) (a := 8) (v := q.ssrc) rfl
  simp [readFixedHeader, hbyte1, hseq, hts, hssrc, AbstractPacket.fixedHeader]

theorem readCsrcList_encodeBytes {q : AbstractPacket} (h : q.valid) :
    readCsrcList (memoryOf (encodeBytes q)) (encodeBytes q).length (BitVec.ofNat 4 q.csrcCount) =
      .ok (q.csrc, 12 + 4 * q.csrcCount) := by
  have hcc := h.csrcCount_toNat
  have hlist := readCsrcList_memoryOf (h.csrc_length.trans hcc.symm) (encodeBytes_drop_twelve q)
  rwa [hcc] at hlist

/-- With X = 1 the extension block is read from the encoding. -/
theorem readExtension_encodeBytes {q : AbstractPacket} (h : q.valid) (hx : q.extension = true) :
    readExtension (memoryOf (encodeBytes q)) (encodeBytes q).length (12 + 4 * q.csrcCount) = .ok q.extensionBlock := by
  have helen := h.extensionHeaderLength_toNat
  have hdrop := encodeBytes_drop_csrcEnd h.csrc_length
  rw [encodeExtension, if_pos hx, List.append_assoc, List.append_assoc] at hdrop
  have hread := readExtension_memoryOf (h.ext_length.trans helen.symm) hdrop
  simpa [AbstractPacket.extensionBlock, hx, helen] using hread

/-- With X = 0 the extension block of a valid packet is the empty one (R160). -/
theorem extensionBlock_eq_noExtension {q : AbstractPacket} (h : q.valid) (hx : q.extension = false) :
    q.extensionBlock = noExtension (12 + 4 * q.csrcCount) := by
  obtain ⟨-, -, ⟨-, hnone⟩, -⟩ := h
  obtain ⟨hid, hlen, -⟩ := hnone hx
  simp [AbstractPacket.extensionBlock, noExtension, hx, hid, hlen]

/-- The body and the payload stand where the extension block says (R115, R203). -/
theorem encodeBytes_drop_extOffset {q : AbstractPacket} (h : q.valid) :
    (encodeBytes q).drop q.extensionBlock.offset = q.ext ++ q.payload.getD [] := by
  have hdrop := encodeBytes_drop_csrcEnd h.csrc_length
  obtain ⟨-, -, ⟨-, hnone⟩, -⟩ := h
  rw [encodeExtension] at hdrop
  cases hx : q.extension with
  | false =>
    obtain ⟨-, -, hnil⟩ := hnone hx
    simpa [AbstractPacket.extensionBlock, hx, hnil] using hdrop
  | true =>
    rw [if_pos hx, List.append_assoc] at hdrop
    simpa [AbstractPacket.extensionBlock, hx] using drop_add_of_drop hdrop

/-- The payload ends the encoding (R203, line 10). -/
theorem encodeBytes_drop_payload {q : AbstractPacket} (h : q.valid) :
    (encodeBytes q).drop q.extensionBlock.cursor = q.payload.getD [] := by
  have hpayload := drop_add_of_drop (encodeBytes_drop_extOffset h)
  rwa [h.ext_length] at hpayload

/-! ## The round trip -/

/-- DECODE of a valid packet's encoding is built of the packet's own parts. -/
theorem decodePacket_encodeBytes {q : AbstractPacket} (h : q.valid) (hlong : 12 < (encodeBytes q).length) (draw : Nat) :
    decodePacket (memoryOf (encodeBytes q)) (encodeBytes q).length draw =
      .ok (buildPacket q.padding q.extension (BitVec.ofNat 4 q.csrcCount) q.fixedHeader q.csrc q.extensionBlock
        (encodeBytes q).length draw) := by
  have hbyte0 := byteAt_memoryOf (d := encodeBytes q) (a := 0) (b := encodeByte0 q) rfl
  have hform : encodeByte0 q = formByte q.padding q.extension (BitVec.ofNat 4 q.csrcCount) := by
    obtain ⟨hversion, -⟩ := h
    exact encodeByte0_of_version hversion
  have hversion : byte0Version (encodeByte0 q) = 2 := by rw [hform, byte0Version_formByte]
  have hextension : byte0Extension (encodeByte0 q) = q.extension := by rw [hform, byte0Extension_formByte]
  have hpadding : byte0Padding (encodeByte0 q) = q.padding := by rw [hform, byte0Padding_formByte]
  have hcount : byte0CsrcCount (encodeByte0 q) = BitVec.ofNat 4 q.csrcCount := by rw [hform, byte0CsrcCount_formByte]
  cases hx : q.extension with
  | false =>
    rw [decodePacket_v2 hbyte0 hversion (hextension.trans hx), hpadding, hcount, extensionBlock_eq_noExtension h hx]
    exact decodeV2_of_parts q.padding hlong (readFixedHeader_encodeBytes q) (readCsrcList_encodeBytes h)
  | true =>
    rw [decodePacket_v2X hbyte0 hversion (hextension.trans hx), hpadding, hcount,
      decodeV2X_of_parts q.padding hlong (readFixedHeader_encodeBytes q) (readCsrcList_encodeBytes h),
      readExtension_encodeBytes h hx]
    rfl

/-- The abstraction of the packet built of a valid packet's parts, over its encoding, is that packet. -/
theorem abstractPacket_encodeBytes {q : AbstractPacket} (h : q.valid) (draw : Nat) :
    abstractPacket (memoryOf (encodeBytes q)) (buildPacket q.padding q.extension (BitVec.ofNat 4 q.csrcCount)
      q.fixedHeader q.csrc q.extensionBlock (encodeBytes q).length draw) = some q := by
  have hext := window_memoryOf (encodeBytes_drop_extOffset h)
  rw [h.ext_length] at hext
  have hcc := h.csrcCount_toNat
  have helen : q.extensionBlock.headerLength.toNat = q.extensionHeaderLength := h.extensionHeaderLength_toNat
  have hend := encodeBytes_drop_payload h
  obtain ⟨hversion, ⟨hmax, hcsrc⟩, -, ⟨d, hd, hlen⟩, -⟩ := h
  have hd : q.payload = some d := hd
  rw [hd, Option.getD_some] at hend
  have hpayload := window_memoryOf (rest := []) (hend.trans (List.append_nil d).symm)
  have hsize : (encodeBytes q).length - q.extensionBlock.cursor = d.length := by
    rw [← List.length_drop, hend]
  have htake : (csrcFile q.csrc draw).toList.take q.csrcCount = q.csrc := hcsrc ▸ csrcFile_take (hcsrc.trans_le hmax)
  simp only [abstractPacket, buildPacket_extOffset, buildPacket_extensionHeaderLength, buildPacket_payloadOffset,
    buildPacket_payloadLength, helen, hsize, hext, hpayload, buildPacket_csrcCount, buildPacket_csrc, hcc, htake]
  rw [hlen, ← hd, buildPacket_version, ← hversion]
  rfl

/-- Settles O24: the parts stand in the encoding where DECODE reads them, and make up the packet again. -/
theorem decodeOfEncodedPacketIsThePacket : Obligations.DecodeOfEncodedPacketIsThePacket := by
  intro q cap draw h hlong hcap
  rw [← encodeBytes_length h.encodable (.inl h.payload_ne_none)] at hlong
  exact ⟨encodeBytes q, _, encodePacket_eq_ok h.encodable (.inl h.payload_ne_none) hcap,
    decodePacket_encodeBytes h hlong draw, abstractPacket_encodeBytes h draw⟩

end Sys2Proof.Machine
end

section
/-! Proofs. The results of Encode, each under the check of R203 that gives it (R202 to R204). -/

namespace Sys2Proof.Machine

section
variable {q : AbstractPacket} {cap : Nat}

/-- Encode has no meaning on sequences that disagree with their counts (R202). -/
theorem encodePacket_undefined (h : ¬ q.encodable) : encodePacket q cap = .undefined := if_neg h

/-- A payload that is declared and not there is NULL_PAYLOAD at every capacity (R203, line 2). -/
theorem encodePacket_nullPayload (h : q.encodable) (hpos : 0 < q.payloadLength) (hnone : q.payload = none) :
    encodePacket q cap = .err .nullPayload := by
  rw [encodePacket, if_pos h, if_pos ⟨hpos, hnone⟩]

/-- Encode never runs past its capacity (R203, line 3). -/
theorem encodePacket_bufferTooSmall (h : q.encodable) (hp : q.payload ≠ none ∨ q.payloadLength = 0)
    (hcap : cap < byteCount q) : encodePacket q cap = .err .bufferTooSmall := by
  have hthere : ¬ (0 < q.payloadLength ∧ q.payload = none) := fun ⟨hpos, hnone⟩ =>
    hp.elim (· hnone) hpos.ne'
  rw [encodePacket, if_pos h, if_neg hthere, if_pos hcap]

end

/-- Settles O23: each clause is one result of Encode. -/
theorem encodeHasByteCountBytes : Obligations.EncodeHasByteCountBytes := by
  intro q cap
  refine ⟨fun h hcap hp => ?_, encodePacket_nullPayload, encodePacket_bufferTooSmall, encodePacket_undefined⟩
  exact ⟨encodeBytes q, encodePacket_eq_ok h hp hcap, encodeBytes_length h hp⟩

end Sys2Proof.Machine
end

section
/-! Proofs. The bytes a read of a datagram came from are the encoding of the value it gave (R15, R80, R112 to R115). -/

namespace Sys2Proof.Machine

/-! ## A field is its bytes -/

/-- Byte 1 is M above PT (R112). -/
theorem byte1_append (b : Byte) : BitVec.ofBool (byte1Marker b) ++ byte1PayloadType b = b := by
  revert b
  decide

theorem be16_append (b0 b1 : Byte) : be16 (b0 ++ b1) = [b0, b1] := by
  have h0 : (b0 ++ b1).extractLsb' 8 8 = b0 := BitVec.extractLsb'_append_eq_left
  have h1 : (b0 ++ b1).extractLsb' 0 8 = b1 := BitVec.extractLsb'_append_eq_right
  rw [be16, h0, h1]

/-- A 32-bit field is its two halves, the high one first (R80). -/
theorem be32_append (h l : Half) : be32 (h ++ l) = be16 h ++ be16 l := by
  have hlow (k : Nat) (hk : k + 8 ≤ 16) : (h ++ l).extractLsb' k 8 = l.extractLsb' k 8 :=
    BitVec.extractLsb'_append_eq_of_add_le hk
  have hhigh (k : Nat) : (h ++ l).extractLsb' (16 + k) 8 = h.extractLsb' k 8 := by
    rw [BitVec.extractLsb'_append_eq_of_le (Nat.le_add_right 16 k), Nat.add_sub_cancel_left]
  rw [be32, hhigh 8, hhigh 0, hlow 8 (by decide), hlow 0 (by decide)]
  rfl

/-! ## Reads of a datagram -/

section
variable {d : List Byte} {a : Nat}

/-- A byte that is read stands at its index. -/
theorem drop_of_byteAt {b : Byte} (h : byteAt (memoryOf d) d.length a = .ok b) : d.drop a = b :: d.drop (a + 1) := by
  obtain ⟨ha, hb⟩ := byteAt_eq_ok.1 h
  rw [read_memoryOf, List.getElem?_eq_getElem ha] at hb
  rw [List.drop_eq_getElem_cons ha, Option.some.inj hb]

/-- Two bytes of the datagram are a 16-bit field. -/
theorem drop_eq_be16 (h : a + 2 ≤ d.length) : ∃ v, d.drop a = be16 v ++ d.drop (a + 2) := by
  have h0 : a < d.length := by omega
  have h1 : a + 1 < d.length := by omega
  refine ⟨d[a] ++ d[a + 1], ?_⟩
  rw [be16_append, List.drop_eq_getElem_cons h0, List.drop_eq_getElem_cons h1]
  rfl

/-- Four bytes of the datagram are a 32-bit field. -/
theorem drop_eq_be32 (h : a + 4 ≤ d.length) : ∃ v, d.drop a = be32 v ++ d.drop (a + 4) := by
  obtain ⟨high, hhigh⟩ := drop_eq_be16 (d := d) (a := a) (by omega)
  obtain ⟨low, hlow⟩ := drop_eq_be16 (d := d) (a := a + 2) (by omega)
  exact ⟨high ++ low, by rw [be32_append, List.append_assoc, ← hlow, ← hhigh]⟩

/-- The bytes a 16-bit field was read from are its encoding. -/
theorem drop_of_readHalf {v : Half} (h : readHalf (memoryOf d) d.length a = .ok v) :
    d.drop a = be16 v ++ d.drop (a + 2) := by
  obtain ⟨w, hw⟩ := drop_eq_be16 (memRead_le_len two_pos (readHalf_eq_ok.1 h))
  rwa [Except.ok.inj (h.symm.trans (readHalf_memoryOf hw))]

/-- The bytes a 32-bit field was read from are its encoding. -/
theorem drop_of_readWord {v : Word} (h : readWord (memoryOf d) d.length a = .ok v) :
    d.drop a = be32 v ++ d.drop (a + 4) := by
  obtain ⟨w, hw⟩ := drop_eq_be32 (memRead_le_len four_pos (readWord_eq_ok.1 h))
  rwa [Except.ok.inj (h.symm.trans (readWord_memoryOf hw))]

/-- The bytes a list of 32-bit values was read from are their encodings in wire order (R114). -/
theorem drop_of_readWords {n : Nat} {ws : List Word} (h : readWords (memoryOf d) d.length a n = .ok ws) :
    d.drop a = ws.flatMap be32 ++ d.drop (a + 4 * n) := by
  induction n generalizing a ws with
  | zero =>
    cases h
    rfl
  | succ n ih =>
    simp only [readWords, except_bind_eq_ok] at h
    obtain ⟨w, hw, ws', hws, he⟩ := h
    obtain rfl := Except.ok.inj he
    have hend : a + 4 + 4 * n = a + 4 * (n + 1) := by omega
    rw [drop_of_readWord hw, ih hws, List.flatMap_cons, List.append_assoc, hend]

/-- A window inside the datagram is the bytes that stand there (R55). -/
theorem window_memoryOf_of_le {n : Nat} (h : a + n ≤ d.length) :
    (memoryOf d).window a n = some ((d.drop a).take n) := by
  have hlen : ((d.drop a).take n).length = n := by
    rw [List.length_take, List.length_drop]
    omega
  have hwindow := window_memoryOf (List.take_append_drop n (d.drop a)).symm
  rwa [hlen] at hwindow

/-! ## The parts of a packet -/

/-- The bytes the fixed header was read from, from byte 1 on, are its fields' encodings (R112, R113). -/
theorem drop_of_readFixedHeader {hd : FixedHeader} (h : readFixedHeader (memoryOf d) d.length = .ok hd) :
    d.drop 1 = (BitVec.ofBool hd.marker ++ hd.payloadType) ::
      (be16 hd.sequenceNumber ++ (be32 hd.timestamp ++ (be32 hd.ssrc ++ d.drop 12))) := by
  simp only [readFixedHeader, except_bind_eq_ok] at h
  obtain ⟨b, hb, seq, hseq, ts, hts, ssrc, hssrc, he⟩ := h
  obtain rfl := Except.ok.inj he
  rw [drop_of_byteAt hb, drop_of_readHalf hseq, drop_of_readWord hts, drop_of_readWord hssrc, byte1_append]

/-- The bytes the CSRC list was read from are its entries' encodings (R114). -/
theorem drop_of_readCsrcList {cc : BitVec 4} {ws : List Word} {cur : Nat}
    (h : readCsrcList (memoryOf d) d.length cc = .ok (ws, cur)) : d.drop 12 = ws.flatMap be32 ++ d.drop cur := by
  unfold readCsrcList at h
  rw [if_neg (csrcCount_le cc)] at h
  split at h
  next =>
    cases h
    rfl
  next =>
    split at h
    next => cases h
    next =>
      rw [except_bind_eq_ok] at h
      obtain ⟨ws', hws, he⟩ := h
      obtain ⟨rfl, rfl⟩ := Prod.mk.inj (Except.ok.inj he)
      exact drop_of_readWords hws

/-- The bytes the extension block was read from are its two header fields and its body (R115). -/
theorem drop_of_readExtension {e : ExtensionBlock} (h : readExtension (memoryOf d) d.length a = .ok e)
    (ha : a ≤ d.length) :
    d.drop a = be16 e.headerId ++ (be16 e.headerLength ++
      ((d.drop e.offset).take e.headerLength.toNat ++ d.drop e.cursor)) := by
  obtain ⟨hid, hlen, hoffset, hcursor, -⟩ := readExtension_eq_ok h ha
  have hbody : d.drop e.cursor = (d.drop e.offset).drop e.headerLength.toNat := by
    rw [List.drop_drop, hoffset, hcursor]
  have hpreamble : a + 2 + 2 = e.offset := by rw [hoffset]
  rw [hbody, List.take_append_drop, drop_of_readHalf (readHalf_eq_ok.2 hid), drop_of_readHalf (readHalf_eq_ok.2 hlen),
    hpreamble]

end
end Sys2Proof.Machine
end

section
/-! Proofs. Encode of the abstraction of a decoded packet: it is defined, it fits, and its bytes are the datagram (R163, R202, R206). -/

namespace Sys2Proof.Machine

/-! ## The abstraction of a packet over its datagram -/

/-- The abstract packet of a record whose windows lie in a datagram, the payload at its end (R163). -/
def Packet.abstractOver (p : Packet) (d : List Byte) : AbstractPacket where
  version := p.version
  padding := p.padding
  extension := p.extension
  csrcCount := p.csrcCount.toNat
  marker := p.marker
  payloadType := p.payloadType
  sequenceNumber := p.sequenceNumber
  timestamp := p.timestamp
  ssrc := p.ssrc
  csrc := p.csrc.toList.take p.csrcCount.toNat
  extensionHeaderId := p.extensionHeaderId
  extensionHeaderLength := p.extensionHeaderLength.toNat
  ext := (d.drop p.extOffset).take p.extensionHeaderLength.toNat
  payloadLength := p.payloadLength
  payload := some (d.drop p.payloadOffset)

section
variable {d : List Byte} {draw : Nat} {p : Packet}

/-- The abstraction of a decoded packet reads both windows out of the datagram. -/
theorem abstractPacket_of_decodePacket (h : decodePacket (memoryOf d) d.length draw = .ok p) :
    abstractPacket (memoryOf d) p = some (p.abstractOver d) := by
  obtain ⟨⟨hpayload, hext, -⟩, -⟩ := tiles_of_decodePacket h
  have hrest : (d.drop p.payloadOffset).take p.payloadLength = d.drop p.payloadOffset :=
    List.take_of_length_le (by rw [List.length_drop]; omega)
  rw [abstractPacket, window_memoryOf_of_le (by omega), window_memoryOf_of_le (by omega), hrest]
  rfl

/-- Encode is defined on the abstraction of a decoded packet (R202). -/
theorem abstractOver_encodable (h : decodePacket (memoryOf d) d.length draw = .ok p) : (p.abstractOver d).encodable := by
  obtain ⟨⟨hpayload, hext, -⟩, -⟩ := tiles_of_decodePacket h
  have hcount : p.csrcCount.toNat ≤ 15 := Nat.le_of_lt_succ p.csrcCount.isLt
  refine ⟨hcount, ?_, fun _ => ?_, p.extensionHeaderLength.isLt, fun payload hd => ?_⟩
  · simpa [Packet.abstractOver] using hcount
  · simp only [Packet.abstractOver, List.length_take, List.length_drop]
    omega
  · obtain rfl := Option.some.inj hd
    simp only [Packet.abstractOver, List.length_drop]
    omega

end

/-! ## The parts of its encoding -/

section
variable {d : List Byte} {p x : Bool} {cc : BitVec 4} {hd : FixedHeader} {ws : List Word} {e : ExtensionBlock}
  {len draw : Nat}

/-- Byte 0 of version 2 is encoded as it was decoded (R111). -/
theorem encodeByte0_abstractOver {b : Byte} (hv : byte0Version b = 2) :
    encodeByte0 ((buildPacket (byte0Padding b) (byte0Extension b) (byte0CsrcCount b) hd ws e len draw).abstractOver d) =
      b := by
  rw [encodeByte0_of_version rfl]
  simpa [Packet.abstractOver] using formByte_fields hv

/-- The CSRC entries kept are those read (R53). -/
theorem csrc_abstractOver (hws : ws.length = cc.toNat) :
    ((buildPacket p x cc hd ws e len draw).abstractOver d).csrc = ws := by
  have hcount : cc.toNat ≤ 15 := Nat.le_of_lt_succ cc.isLt
  rw [Packet.abstractOver, buildPacket_csrc, buildPacket_csrcCount, ← hws]
  exact csrcFile_take (hws.trans_le hcount)

/-- The extension block is encoded as the bytes it was read from, which are none with X = 0 (R115, R160). -/
theorem encodeExtension_abstractOver {cur : Nat} (hcur : cur ≤ d.length)
    (he : (x = false ∧ e = noExtension cur) ∨ (x = true ∧ readExtension (memoryOf d) d.length cur = .ok e)) :
    encodeExtension ((buildPacket p x cc hd ws e len draw).abstractOver d) ++ d.drop e.cursor = d.drop cur := by
  rcases he with ⟨rfl, rfl⟩ | ⟨rfl, he⟩
  · rfl
  · rw [drop_of_readExtension he hcur]
    simp [encodeExtension, Packet.abstractOver]

end

/-- The parts of an encoding in order: the fixed header, the CSRC list, the extension block and the payload (R203). -/
theorem encodeBytes_eq_parts (q : AbstractPacket) :
    encodeBytes q = encodeByte0 q :: encodeByte1 q :: (be16 q.sequenceNumber ++ (be32 q.timestamp ++ (be32 q.ssrc ++
      (q.csrc.flatMap be32 ++ (encodeExtension q ++ q.payload.getD []))))) := by
  simp [encodeBytes]

/-! ## The round trip -/

/-- The encoding of a decoded packet is its datagram: each part read is encoded as the bytes it was read from. -/
theorem encodeBytes_abstractOver {d : List Byte} {draw : Nat} {p : Packet}
    (h : decodePacket (memoryOf d) d.length draw = .ok p) : encodeBytes (p.abstractOver d) = d := by
  obtain ⟨b, hd, ws, e, hlen, hb, hv, hhd, hws, hle, rfl, he⟩ := decodePacket_eq_ok h
  obtain ⟨-, -, hcount, -⟩ := readCsrcList_eq_ok hws hlen.le
  calc encodeBytes _
    _ = b :: (BitVec.ofBool hd.marker ++ hd.payloadType) :: (be16 hd.sequenceNumber ++ (be32 hd.timestamp ++
        (be32 hd.ssrc ++ (ws.flatMap be32 ++ d.drop (12 + 4 * (byte0CsrcCount b).toNat))))) := by
      rw [encodeBytes_eq_parts, encodeByte0_abstractOver hv, csrc_abstractOver hcount,
        ← encodeExtension_abstractOver hle he]
      rfl
    _ = b :: d.drop 1 := by rw [← drop_of_readCsrcList hws, ← drop_of_readFixedHeader hhd]
    _ = d := (drop_of_byteAt hb).symm

/-- Settles O25: the abstraction reads its windows from the datagram, and every part is encoded as the bytes it was read from. -/
theorem encodeOfDecodedPacketIsTheDatagram : Obligations.EncodeOfDecodedPacketIsTheDatagram := by
  intro d draw p h
  have habs := abstractPacket_of_decodePacket h
  have hsize : byteCount (p.abstractOver d) = d.length := (decodedPacketHasTheDatagramsSize _ _ _ _ h).2 _ habs
  have hencode := encodePacket_eq_ok (abstractOver_encodable h) (.inl (Option.some_ne_none _)) hsize.le
  rw [encodeBytes_abstractOver h] at hencode
  exact ⟨p.abstractOver d, habs, hencode⟩

end Sys2Proof.Machine
end

section
/-! Proofs. The host's commands in each session state, and the exact next states of Net's answer and of stop completion. -/

namespace Sys2Proof.Machine

/-! ## Commands -/

theorem hostCommand_of_stopped {f g : State → State} {s : State} (hs : s.session = .stopped) :
    hostCommand f g s = .next (f s) := by
  rw [hostCommand_eq, if_pos hs]

theorem hostCommand_of_running {f g : State → State} {s : State} (hs : s.session = .running) :
    hostCommand f g s = .next (g s) := by
  rw [hostCommand_eq, if_neg (by simp [hs]), if_pos hs]

/-- A command whose meaning is the identity in Stopped and in Running completes and changes nothing (R233). -/
theorem hostCommand_id (s : State) : hostCommand id id s = .next s := by
  simp [hostCommand_eq]

/-- Settles O26: the three rows' meanings are the command without effect. -/
theorem nopAndReservedCodesDoNothing : Obligations.NopAndReservedCodesDoNothing := by
  intro op ign s
  exact ⟨hostCommand_id s, hostCommand_id s, hostCommand_id s⟩

/-- START and RECONFIGURE in Stopped (R234, R242). -/
theorem exec_start_of_stopped {i : Instr} {ign : BitVec 28} {s : State} (hi : i = .cmdStart ign ∨ i = .cmdReconfigure ign)
    (hs : s.session = .stopped) : exec i s = .next (startSequence (latchConfig s)) := by
  rcases hi with rfl | rfl
  · simp only [exec, execCmdStart, hostCommand_of_stopped hs]
  · simp only [exec, execCmdReconfigure, hostCommand_of_stopped hs]

/-- StartSequence past the three checks of R329. -/
theorem startSequence_accepted {s : State} (hg : s.pend.group ≠ 0)
    (hf : s.pend.stream.format = 0 ∨ s.pend.stream.format = 1) (hr : s.pend.stream.rate ≠ 3)
    (hl : s.pend.stream.layout ≠ 3) :
    startSequence s =
      { s with
        act := s.pend
        sessionErr := .none
        session := .starting
        net := { s.net with request := some (bindTriple s.pend) } } :=
  startSequence_legal ⟨hg, (formatLegal_iff _).2 hf, (rateOrLayoutReserved_eq_false _).2 ⟨hr, hl⟩⟩

/-- Settles O27: the latch, then the four ways a StartSequence ends. -/
theorem startInStopped : Obligations.StartInStopped := by
  intro i ign s hi hs
  rw [exec_start_of_stopped hi hs]
  exact ⟨fun hg => congrArg _ (startSequence_noGroup hg), fun hg hf => congrArg _ (startSequence_badFormat hg hf),
    fun hg hf hr => congrArg _ (startSequence_reserved hg hf hr),
    fun hg hf hr hl => congrArg _ (startSequence_accepted hg hf hr hl)⟩

/-- A command that arrives while BUSY is 1 has no effect (R232). -/
theorem exec_command_of_busy {i : Instr} (hi : isForm i = false) {s : State} (hb : s.busy = true) : exec i s = .next s := by
  rw [busy_iff] at hb
  rcases exec_command_cases hi s with he | ⟨hs, -⟩ | ⟨hs, -⟩ | ⟨hs, -⟩
  · exact he
  all_goals simp [hs] at hb

/-- Settles O28: START in Running and STOP in Stopped are the identity there, and BUSY stops every command. -/
theorem lifecycleErrorsHaveNoEffect : Obligations.LifecycleErrorsHaveNoEffect := by
  intro i ign s
  refine ⟨?_, ?_, fun hi hb => exec_command_of_busy hi hb, busy_iff s⟩
  · rintro rfl hs
    simp only [exec, execCmdStart, hostCommand_of_running hs, id]
  · rintro rfl hs
    simp only [exec, execCmdStop, hostCommand_of_stopped hs, id]

/-- Settles O29: each command's meaning in Running. -/
theorem stopAndReconfigureInRunning : Obligations.StopAndReconfigureInRunning := by
  intro ign s hs
  simp only [exec, execCmdStop, execCmdReconfigure, hostCommand_of_running hs]
  exact ⟨rfl, rfl⟩

/-! ## Net's answer and stop completion -/

/-- Settles O31: the verdict decides between the loop's beginning and the bind's failure. -/
theorem bindAnswerEndsStarting : Obligations.BindAnswerEndsStarting := by
  intro s rest b v hsched hs hr
  rw [step_of_schedule hsched]
  simp only [moveAction, bindRespStep, hs, hr]
  constructor
  · rintro rfl
    rfl
  · rintro c (⟨rfl, rfl⟩ | ⟨rfl, rfl⟩)
    · rfl
    · rfl

/-- The step of a stop completion (R241). -/
theorem step_complete {s : State} {rest : List Move} (hsched : s.schedule = .complete :: rest)
    (hs : s.session = .stopping) (hl : s.loop = .idle) : step s = .next (completeStop { s with schedule := rest }) :=
  (step_of_schedule hsched).trans (runAction_completeStep hs hl)

theorem completeStop_of_noRestart {s : State} (hr : s.restart = false) :
    completeStop s = { releaseSession s with restart := false } := by
  rw [completeStop, if_neg (by simp [hr]), ← hr, ← releaseSession_restart]

theorem completeStop_of_restart {s : State} (hr : s.restart = true) :
    completeStop s = startSequence { releaseSession s with restart := false } := if_pos hr

/-- Settles O32: the release, and with RESTART = 1 the four ways a StartSequence on PEND_* ends. -/
theorem stopCompletion : Obligations.StopCompletion := by
  intro s rest hsched hs hl u
  rw [step_complete hsched hs hl]
  have hrestart (hr : s.restart = true) : completeStop { s with schedule := rest } = startSequence u :=
    completeStop_of_restart hr
  exact ⟨fun hr => congrArg _ (completeStop_of_noRestart hr),
    fun hr hg => congrArg _ ((hrestart hr).trans (startSequence_noGroup hg)),
    fun hr hg hf => congrArg _ ((hrestart hr).trans (startSequence_badFormat hg hf)),
    fun hr hg hf hv => congrArg _ ((hrestart hr).trans (startSequence_reserved hg hf hv)),
    fun hr hg hf hrate hlayout => congrArg _ ((hrestart hr).trans (startSequence_accepted hg hf hrate hlayout))⟩

end Sys2Proof.Machine
end

section
/-! Proofs. The invariant at reset, the edges of STATE (R230), and what can still happen without a session (R245, R338, R362). -/

namespace Sys2Proof.Machine

/-- Settles O43, clause by clause: nothing runs, nothing is bound or offered, and the buffer is empty. -/
theorem resetSatisfiesTheInvariant : Obligations.ResetSatisfiesTheInvariant where
  params := by decide
  session := ⟨rfl, rfl, rfl, rfl, rfl⟩
  active := fun hne => absurd rfl hne
  bufferForm := List.Pairwise.nil
  bufferBound := by simp [State.reset]
  bufLen := Nat.zero_le _
  filled := by simp [State.bufferFilled, State.reset]
  valid := by simp [State.reset]
  offer := rfl
  windows := by simp [State.reset]
  request := rfl
  binding := rfl
  unbound := fun _ => rfl
  depth := Nat.zero_le _
  sessionCode := rfl
  dropCode := rfl
  noPending := fun _ => rfl

/-- StartSequence leaves STATE or moves it to Starting (R235). -/
theorem startSequence_session (s : State) :
    (startSequence s).session = .starting ∨ (startSequence s).session = s.session := by
  rcases startSequence_cases s with h | ⟨c, -, h⟩ <;> rw [h]
  · exact .inl rfl
  · exact .inr rfl

/-- A fatal report moves STATE only out of Running (R287). -/
theorem fatalReport_moves_session {s : State} (h : (fatalReport s).session ≠ s.session) :
    s.session = .running ∧ (fatalReport s).session = .stopping := by
  by_cases hs : s.session = .running
  · exact ⟨hs, if_pos hs⟩
  · exact absurd (if_neg hs) h

/-- Settles O46: every other effect leaves STATE as it was. -/
theorem sessionMovesAlongItsEdges : Obligations.SessionMovesAlongItsEdges := by
  intro s t mv rest hsched hreset hstep hmoved
  cases step_effect hsched hstep with
  | hostStart more hs hw =>
    have hstarting := (startSequence_session _).resolve_right hmoved
    exact .inl ⟨hs, hstarting, rfl, hw⟩
  | hostStop more hs hw => exact .inr (.inr (.inr (.inl ⟨hs, rfl, .inl ⟨rfl, .inl hw⟩⟩)))
  | hostReconfigure more hs hw => exact .inr (.inr (.inr (.inl ⟨hs, rfl, .inl ⟨rfl, .inr hw⟩⟩)))
  | bindOk hs hr => exact .inr (.inl ⟨hs, rfl, rfl⟩)
  | bindFail hs hr hv =>
    have hverdict := hv.imp (congrArg Move.bindResp ·.1) (congrArg Move.bindResp ·.1)
    exact .inr (.inr (.inl ⟨hs, rfl, hverdict⟩))
  | convFatal hl =>
    obtain ⟨hs, hstopping⟩ := fatalReport_moves_session hmoved
    exact .inr (.inr (.inr (.inl ⟨hs, hstopping, .inr rfl⟩)))
  | completeStopped hs hl hr => exact .inr (.inr (.inr (.inr (.inl ⟨hs, rfl, rfl⟩))))
  | completeRestarted hs hl hr =>
    rcases startSequence_session { releaseSession { s with schedule := rest } with restart := false } with h | h
    · exact .inr (.inr (.inr (.inr (.inr ⟨hs, h, rfl, hr⟩))))
    · exact .inr (.inr (.inr (.inr (.inl ⟨hs, h, rfl⟩))))
  | reset => exact absurd rfl hreset
  | _ => exact absurd rfl hmoved

/-- In Stopped and Starting every move of the loop, of the queue and of block control lacks its enabling condition. -/
theorem MoveEffect.quiet {s t : State} {mv : Move} (e : MoveEffect s mv t) (h : s.Inv)
    (hs : s.session = .stopped ∨ s.session = .starting) :
    mv = .host ∨ (s.session = .starting ∧ ∃ v, mv = .bindResp v) ∨ (∃ w k, mv = .downRead w k) ∨ mv = .reset := by
  obtain ⟨-, -, hidle, hsock, -⟩ := h.quiet hs
  have hbinding : s.net.binding = none := h.binding.trans (if_neg (by simp [hsock]))
  have hqueue : s.net.queue = [] := h.unbound hsock
  have hsession : s.session ≠ .stopping := by rcases hs with hs | hs <;> simp [hs]
  cases e with
  | hostLocal | hostStart | hostStop | hostReconfigure => exact .inl rfl
  | bindOk hstarting | bindFail hstarting => exact .inr (.inl ⟨hstarting, _, rfl⟩)
  | downRead => exact .inr (.inr (.inl ⟨_, _, rfl⟩))
  | reset => exact .inr (.inr (.inr rfl))
  | arriveQueued hb | arriveLost hb => exact absurd hbinding hb
  | lose hk => simp [hqueue] at hk
  | completeStopped hstopping | completeRestarted hstopping => exact absurd hstopping hsession
  | check hl | rxTooLong hl | rxIngest hl | timeout hl | processDrop hl | processAccept hl | sinkAck hl | convFatal hl =>
    simp [hidle] at hl

/-- Settles O57: the schedule is no part of the invariant. -/
theorem quietWithoutASession : Obligations.QuietWithoutASession := by
  intro s t mv rest h hsched hstep hs
  exact (step_effect hsched hstep).quiet (h.setUntracked s.cfg s.pend _ _ _ rest _) hs

end Sys2Proof.Machine
end

section
/-! Proofs. The steps of the receive loop: ingress, Check, RX_TIMEOUT and Down's answers, the edges of LOOP, and what a drop leaves
(R280 to R283, R286, R287, R290). -/

namespace Sys2Proof.Machine

/-! ## Ingress -/

/-- PKTBUF after an ingress holds the datagram below its length (R282). -/
theorem ingest_read_lt {d : List Byte} {a : Nat} (s : State) (ha : a < d.length) :
    (ingest d s).pktBuf.read a = d[a]? := by
  rw [ingest_pktBuf, Memory.read_writeBytes, if_pos (by omega), Nat.sub_zero]

/-- PKTBUF after an ingress holds its old bytes from the datagram's length on (R282). -/
theorem ingest_read_ge {d : List Byte} {a : Nat} (s : State) (ha : d.length ≤ a) :
    (ingest d s).pktBuf.read a = s.pktBuf.read a := by
  rw [ingest_pktBuf, Memory.read_writeBytes, if_neg (by omega)]

/-- The step of an ingress: the queue's head leaves it, and its length decides between the drop and PKTBUF (R282). -/
theorem step_rxDatagram {s : State} {rest : List Move} {d : List Byte} {q : List (List Byte)}
    (hsched : s.schedule = .rxDatagram :: rest) (hl : s.loop = .wait) (hq : s.net.queue = d :: q) :
    step s = .next
      (if s.params.maxDatagram < d.length then
        dropDatagram .datagramTooLong { s with schedule := rest, net := { s.net with queue := q } }
      else ingest d { s with schedule := rest, net := { s.net with queue := q } }) := by
  rw [step_of_schedule hsched]
  simp only [moveAction, rxDatagramStep, hl, hq]
  split <;> rfl

/-- Settles O34: the two branches of an ingress, and what PKTBUF reads as after the second. -/
theorem ingressTakesTheHeadDatagram : Obligations.IngressTakesTheHeadDatagram := by
  intro s rest d q hsched hl hq
  rw [step_rxDatagram hsched hl hq]
  constructor
  · intro hlong
    rw [if_pos hlong]
    rfl
  · intro hfits
    rw [if_neg (Nat.not_lt.2 hfits)]
    exact ⟨_, rfl, rfl, fun a ha => ingest_read_lt _ ha, fun a ha => ingest_read_ge _ ha⟩

/-! ## Check and RX_TIMEOUT -/

/-- The step of a Check, the only one that reads RUN (R281). -/
theorem step_check {s : State} {rest : List Move} (hsched : s.schedule = .check :: rest) (hl : s.loop = .check) :
    step s = .next { s with schedule := rest, loop := if s.run then .wait else .idle } := by
  rw [step_of_schedule hsched]
  exact congrArg runAction (if_pos hl)

/-- The step of an RX_TIMEOUT (R283). -/
theorem step_rxTimeout {s : State} {rest : List Move} (hsched : s.schedule = .rxTimeout :: rest) (hl : s.loop = .wait) :
    step s = .next { s with schedule := rest, loop := .check } := by
  rw [step_of_schedule hsched]
  exact congrArg runAction (if_pos hl)

/-- Settles O33: RUN decides where a Check leads, and RX_TIMEOUT leads to Check. -/
theorem checkAndTimeoutMoveTheLoop : Obligations.CheckAndTimeoutMoveTheLoop := by
  intro s rest
  refine ⟨fun hsched hl => ?_, step_rxTimeout⟩
  rw [step_check hsched hl]
  constructor <;> intro hrun
  · rw [if_pos hrun]
  · rw [if_neg (by simp [hrun])]

/-! ## Down's answers -/

/-- The step of a SINK_ACK (R286). -/
theorem step_sinkAck {s : State} {rest : List Move} (hsched : s.schedule = .sinkAck :: rest) (hl : s.loop = .dispatch) :
    step s = .next (endDispatch { s with schedule := rest }) := by
  rw [step_of_schedule hsched]
  exact congrArg runAction (if_pos hl)

/-- The step of a CONV_FATAL (R287). -/
theorem step_convFatal {s : State} {rest : List Move} (hsched : s.schedule = .convFatal :: rest)
    (hl : s.loop = .dispatch) : step s = .next (fatalReport { s with schedule := rest }) := by
  rw [step_of_schedule hsched]
  exact congrArg runAction (if_pos hl)

/-- Settles O35: SINK_ACK is the end of the dispatch. -/
theorem ackEndsTheDispatch : Obligations.AckEndsTheDispatch := fun _ _ hsched hl => step_sinkAck hsched hl

/-- Settles O36: a fatal report writes STATE in Running alone. -/
theorem fatalReportStopsTheSession : Obligations.FatalReportStopsTheSession := by
  intro s rest hsched hl u
  rw [step_convFatal hsched hl]
  constructor <;> intro hs
  · simp only [fatalReport, if_pos hs, u]
  · simp only [fatalReport, if_neg hs, u]

/-! ## The edges of LOOP -/

/-- Settles O47: each effect that writes LOOP is on its edge; the others leave it as it was. -/
theorem loopMovesAlongItsEdges : Obligations.LoopMovesAlongItsEdges := by
  intro s t mv rest h hsched hreset hstep hmoved
  cases step_effect hsched hstep with
  | bindOk hs hr => exact .inl ⟨h.idle_of_starting hs, rfl, rfl⟩
  | check hl =>
    cases hrun : s.run with
    | true => exact .inr (.inl ⟨hl, rfl, rfl, rfl⟩)
    | false => exact .inr (.inr (.inl ⟨hl, rfl, rfl, rfl⟩))
  | rxIngest hl hq hd => exact .inr (.inr (.inr (.inl ⟨hl, rfl, rfl, hd⟩)))
  | timeout hl => exact .inr (.inr (.inr (.inr (.inl ⟨hl, rfl, .inl rfl⟩))))
  | rxTooLong hl hq hd =>
    have hhead := congrArg List.head? hq
    exact .inr (.inr (.inr (.inr (.inl ⟨hl, rfl, .inr ⟨rfl, _, hhead, hd⟩⟩))))
  | processAccept hl hd => exact .inr (.inr (.inr (.inr (.inr (.inl ⟨hl, rfl, rfl, rfl⟩)))))
  | processDrop hl hd =>
    have hvalid : s.pktValid = false := (h.noOffer (ne_of_eq_of_ne hl (by decide))).1
    exact .inr (.inr (.inr (.inr (.inr (.inr (.inl ⟨hl, rfl, rfl, hvalid⟩))))))
  | sinkAck hl => exact .inr (.inr (.inr (.inr (.inr (.inr (.inr ⟨hl, rfl, .inl rfl⟩))))))
  | convFatal hl => exact .inr (.inr (.inr (.inr (.inr (.inr (.inr ⟨hl, rfl, .inr rfl⟩))))))
  | reset => exact absurd rfl hreset
  | hostStart | completeRestarted => simp at hmoved
  | _ => exact absurd rfl hmoved

/-! ## Drops -/

/-- Settles O52: the two effects of ingress and Process that count a drop leave the session alone. -/
theorem protocolErrorsNeverEndTheSession : Obligations.ProtocolErrorsNeverEndTheSession := by
  intro s t mv rest hsched hmv hstep hdrop
  cases step_effect hsched hstep with
  | rxTooLong | processDrop => exact ⟨rfl, rfl, rfl, rfl⟩
  | rxIngest | processAccept => exact absurd rfl hdrop
  | _ => simp at hmv

end Sys2Proof.Machine
end

section
/-! Proofs. A fatal report and a stop command in either order (R330). -/

namespace Sys2Proof.Machine

section
variable {s : State} {w : Word} {rest : List Move} {more : List HostAccess}

/-- A STOP or RECONFIGURE written to CMD in Running begins the stop, a RECONFIGURE with CFG_* in PEND_* (R239, R243). -/
theorem step_stopCommand_of_running (hwf : s.params.wf) (hs : s.session = .running) (hsched : s.schedule = .host :: rest)
    (hp : s.hostProgram = ⟨.write w, s.params.regBase, 4⟩ :: more) (hw : w &&& 0xF = 2 ∨ w &&& 0xF = 3) :
    ∃ again p,
      step s = .next (beginStopping again { s with schedule := rest, hostProgram := more, pend := p }) ∧
        (w &&& 0xF = 2 → p = s.pend) := by
  obtain ⟨hstop, hreconfigure⟩ :=
    stopAndReconfigureInRunning (commandIgnored w) { s with schedule := rest, hostProgram := more } hs
  rw [stepRunsTheCommandWritten s w _ rest more hwf hsched hp rfl]
  rcases hw with hw | hw
  · rw [decodeCommand_stop ((command_maskOpcode w 2).1 hw)]
    exact ⟨false, s.pend, hstop, fun _ => rfl⟩
  · rw [decodeCommand_reconfigure ((command_maskOpcode w 3).1 hw)]
    exact ⟨true, s.cfg, hreconfigure, fun h => absurd (h.symm.trans hw) (by decide)⟩

/-- A fatal report after the beginning of a stop is one in Running: it writes all that the stop wrote (R239, R243, R287). -/
theorem step_convFatal_beginStopping (again : Bool) (hs : s.session = .running) (hl : s.loop = .dispatch)
    (hsched : s.schedule = .convFatal :: rest) :
    step (beginStopping again s) = .next (fatalReport { s with schedule := rest }) := by
  rw [step_convFatal (s := beginStopping again s) hsched hl]
  simp [fatalReport, beginStopping, hs]

/-- After a fatal report in Running the session is Stopping, where a command written to CMD has no effect (R232, R287). -/
theorem step_command_fatalReport (hwf : s.params.wf) (hs : s.session = .running) (hsched : s.schedule = .host :: rest)
    (hp : s.hostProgram = ⟨.write w, s.params.regBase, 4⟩ :: more) :
    step (fatalReport s) = .next (fatalReport { s with schedule := rest, hostProgram := more }) := by
  have hbusy : (fatalReport { s with schedule := rest, hostProgram := more }).busy = true :=
    (busy_iff _).2 (.inr (if_pos hs))
  exact (stepRunsTheCommandWritten (fatalReport s) w _ _ _ hwf hsched hp rfl).trans
    (exec_command_of_busy (isForm_decodeCommand w) hbusy)

/-- What Check and stop completion make of a fatal report in Running (R241, R281). -/
def afterFatalStop (s : State) : State := releaseSession { fatalReport s with loop := .idle }

/-- Check and stop completion after a fatal report in Running end the session without a restart (R241, R281, R287). -/
theorem run_check_complete_fatalReport (hs : s.session = .running) (hsched : s.schedule = .check :: .complete :: rest) :
    Sys2Proof.core.run 2 (fatalReport s) = .next (afterFatalStop { s with schedule := rest }) := by
  have hstopping : (fatalReport s).session = .stopping := if_pos hs
  refine coreRun_succ.2 ⟨_, step_check hsched rfl, coreRun_succ.2 ⟨_, step_complete rfl hstopping rfl, ?_⟩⟩
  exact congrArg _ (completeStop_of_noRestart rfl)

end

/-- Settles O37: a command after the report has no effect, and a report after the command overwrites all it wrote but PEND_*. -/
theorem fatalAndStopCommute : Obligations.FatalAndStopCommute := by
  intro s w rest more hwf hs hl hp hw
  let u : State := { s with schedule := rest, hostProgram := more }
  have hfatalFirst : Sys2Proof.core.run 4 { s with schedule := .convFatal :: .host :: .check :: .complete :: rest } =
      .next (afterFatalStop u) :=
    coreRun_succ.2 ⟨_, step_convFatal rfl hl,
      coreRun_succ.2 ⟨_, step_command_fatalReport hwf hs rfl hp, run_check_complete_fatalReport hs rfl⟩⟩
  obtain ⟨again, p, hstop, hpend⟩ := step_stopCommand_of_running
    (s := { s with schedule := .host :: .convFatal :: .check :: .complete :: rest }) hwf hs rfl hp hw
  have hstopFirst : Sys2Proof.core.run 4 { s with schedule := .host :: .convFatal :: .check :: .complete :: rest } =
      .next (afterFatalStop { u with pend := p }) :=
    coreRun_succ.2 ⟨_, hstop,
      coreRun_succ.2 ⟨_, step_convFatal_beginStopping again hs hl rfl, run_check_complete_fatalReport hs rfl⟩⟩
  refine ⟨_, _, hfatalFirst, hstopFirst, rfl, fun h => by rw [hpend h], ?_⟩
  rintro z (rfl | rfl) <;> exact ⟨rfl, rfl, rfl, rfl, rfl⟩

end Sys2Proof.Machine
end

section
/-! Proofs. The reset step and what the registers read as after it (R360, R361). -/

namespace Sys2Proof.Machine

/-- The offsets of CMD, STATUS, CFG_*, ACT_* and the two counters (R31). -/
def registerOffsets : List Nat := [0x00, 0x04, 0x08, 0x0C, 0x10, 0x14, 0x18, 0x1C, 0x20, 0x24]

/-- What these registers read as at reset, in the same order: STATUS shows Stopped and no error (R33 to R40). -/
theorem reset_readOffset_registers :
    registerOffsets.map State.reset.readOffset = [0, 0, 0, 0, 0x15, 0, 0, 0x15, 0, 0] := by decide

/-- No register shows what a reset step keeps or leaves unspecified, so each reads as in the state after reset (R360). -/
theorem resetBlock_readOffset (s : State) : (resetBlock s).readOffset = State.reset.readOffset := by
  have hreg : (resetBlock s).readReg = State.reset.readReg := by
    funext r
    cases r <;> rfl
  funext off
  simp only [State.readOffset, hreg]

/-- Reset has a step in every state (R360). -/
theorem step_reset {s : State} {rest : List Move} (hsched : s.schedule = .reset :: rest) :
    step s = .next (resetBlock { s with schedule := rest }) :=
  step_of_schedule hsched

/-- CFG_*, ACT_* and PEND_* are all at the one reset value after a reset step (R37, R360). -/
theorem resetBlock_config {s : State} {c : SessionConfig}
    (h : c = (resetBlock s).cfg ∨ c = (resetBlock s).act ∨ c = (resetBlock s).pend) : c = SessionConfig.reset := by
  simpa using h

/-- Settles O38: the reset step is `resetBlock`, read element by element, and its registers read as those of `State.reset`. -/
theorem resetStep : Obligations.ResetStep := by
  refine ⟨reset_readOffset_registers, fun s rest hsched => ⟨_, step_reset hsched, rfl, ?_, ?_⟩⟩
  · rw [resetBlock_readOffset]
    exact reset_readOffset_registers
  refine ⟨rfl, rfl, rfl, rfl, rfl, rfl, rfl, rfl, fun c hc => ?_, rfl, rfl, rfl, rfl, rfl, rfl, rfl, rfl⟩
  obtain rfl := resetBlock_config hc
  exact ⟨rfl, rfl, by decide⟩

end Sys2Proof.Machine
end
